-- ==== Sys2Proof/Word.lean ====
section
/-!
DEFINITION. The word types of the block (00_scope.md R10, R13): tick values, extended times, job ids, callback ids,
bytes and the command word, each a bit vector of the width the spec decides.
-/

namespace Sys2Proof

/-- Width of a tick value in bits (R10, D1). -/
abbrev TICK_W : Nat := 32
/-- Width of an extended time value in bits (R10, D2). -/
abbrev XT_W : Nat := 64
/-- Width of a callback id (R10, D6). -/
abbrev CB_W : Nat := 32
/-- Width of EXACT_CNT (R10, D36). -/
abbrev CNT_W : Nat := 16
/-- Width of IRQ_NEST (R10, D16). -/
abbrev NEST_W : Nat := 8
/-- Bytes of a chip register address (R10, D20). -/
abbrev ADDR_BYTES : Nat := 2

/-- A tick value: unsigned, modulo 2^TICK_W (R13). -/
abbrev Tick := BitVec TICK_W
/-- An extended time value (R13). -/
abbrev XTime := BitVec XT_W
/-- A job id (R10: ids are 16 bits, D5). -/
abbrev JobId := BitVec 16
/-- A callback id (R10, D6). -/
abbrev CbId := BitVec CB_W
/-- One byte of the bus or of FRAME. -/
abbrev Byte := BitVec 8
/-- A chip register address of ADDR_BYTES bytes (R10, R60). -/
abbrev ChipAddr := BitVec (8 * ADDR_BYTES)
/-- The flag set of a job record: bit 0 APPROX, bit 1 IMMED, bit 2 IRQOFF (R25). -/
abbrev FlagSet := BitVec 3
/-- One 128-bit command word (R85). -/
abbrev CmdWord := BitVec 128

/-- SAFE_SPAN: the largest distance that still compares as future (R129, C1). -/
abbrev SAFE_SPAN : Nat := 2 ^ (TICK_W - 1) - 1
/-- The largest value of IRQ_NEST, 2^NEST_W - 1 (R180, D16). -/
abbrev NEST_MAX : BitVec NEST_W := BitVec.ofNat NEST_W (2 ^ NEST_W - 1)
/-- RJOB: the id of the driver-owned record (R10, R24). -/
abbrev RJOB : JobId := 0xFFFE#16
/-- NIL: the id that names no job (R10). -/
abbrev NIL : JobId := 0xFFFF#16
/-- CB_XSTEP: callback id of the extended-schedule self-callback (R10, R88). -/
abbrev CB_XSTEP : CbId := 0xFFFFFFFF#32
/-- CB_RPROC: callback id of the radio processing callback (R10, R88). -/
abbrev CB_RPROC : CbId := 0xFFFFFFFE#32
/-- The first callback id reserved to the block (R92). -/
abbrev CB_RESERVED : CbId := 0xFFFFFFF0#32
/-- NOP_BYTE: the byte sent while reading (R10, R193). -/
abbrev NOP_BYTE : Byte := 0x00#8
/-- MAX_LEN: capacity of FRAME in bytes (R43). -/
abbrev MAX_LEN : Nat := 255

end Sys2Proof
end

