-- ==== Sys2Proof/Config.lean ====
section
/-!
DEFINITION. The implementation parameters of 00_scope.md R10 and R11 and the oracle answers of 10_state.md R56 that no
script fixes. An OPEN parameter has no value anywhere in the model: `Config.declared` is opaque, and what is proved of
the machine holds for every legal configuration.
-/

namespace Sys2Proof

/-- The two modulation families (R19, R41): KIND = FSK (0) or LORA (1). -/
inductive Kind where
  | fsk
  | lora
deriving DecidableEq, Repr, Inhabited

/-- The direction argument of `configure` and `PktBytes` (R101, R218). -/
inductive Dir where
  | tx
  | rx
deriving DecidableEq, Repr, Inhabited

/-- The opcode parameters OPC_*, one for each row of the table of chip commands (R100). -/
inductive OpcName where
  | sleep | standby | fs | tx | txcw | rx | regmode | pkttype | freq | modparams | pktparams | clrirq | irqparams
  | txparams | getirq | rxbufstatus | pktstatus | wreg | rreg | wbuf | rbuf
deriving DecidableEq, Repr, Inhabited

/-- Every opcode name, in the order of R100. -/
def OpcName.all : List OpcName :=
  [.sleep, .standby, .fs, .tx, .txcw, .rx, .regmode, .pkttype, .freq, .modparams, .pktparams, .clrirq, .irqparams,
   .txparams, .getirq, .rxbufstatus, .pktstatus, .wreg, .rreg, .wbuf, .rbuf]

/-- The fields of RCFG that `ModBytes` may read, and no other (R101); `sf` and `cr` are present only when KIND = LORA
(R41, R219 c). -/
structure ModKey where
  kind : Kind
  sf : Option (BitVec 4)
  bw : BitVec 4
  cr : Option (BitVec 4)
  lro : Bool
deriving DecidableEq, Repr, Inhabited

/-- The fields that `PktBytes` may read; `iqinv` is present only when dir = RX (R101). -/
structure PktKey where
  kind : Kind
  preamble : BitVec 16
  hdrmode : Bool
  datalen : BitVec 8
  crcen : Bool
  iqinv : Option Bool
deriving DecidableEq, Repr, Inhabited

/-- The fields that AIRTIME may read besides the length (R249, R11); `sf` and `cr` are present only when KIND = LORA
(R41). -/
structure AirKey where
  kind : Kind
  sf : Option (BitVec 4)
  bw : BitVec 4
  cr : Option (BitVec 4)
  lro : Bool
  preamble : BitVec 16
  hdrmode : Bool
  crcen : Bool
deriving DecidableEq, Repr, Inhabited

/-- The OPEN parameters of R10, under the spec's names. An encoder of fixed length n is given by n and a byte for
each position, so that its length cannot depend on its input (R101). -/
structure Params where
  /-- NJOBS, the number of host job slots. -/
  njobs : Nat
  /-- TICK_HZ; no rule depends on it. -/
  tickHz : Nat
  /-- LATE_TOL, in ticks (R172). -/
  lateTol : Nat
  /-- WD_TIMEOUT; HAL's measure, no rule depends on its value (R276). -/
  wdTimeout : Nat
  /-- EXACT_OVERSHOOT; timing only (R175 e). -/
  exactOvershoot : Nat
  /-- HAS_RESET: whether a reset line to CHIP is wired (R220). -/
  hasReset : Bool
  /-- CHK_ADDR, CHK_LEN, CHK_VALUE: the self-check (R221). -/
  chkAddr : ChipAddr
  chkLen : Nat
  chkValue : List Byte
  /-- OPC_*: the bus opcode byte of each chip command (R100). -/
  opc : OpcName → Byte
  /-- TXBUF_BASE (R225). -/
  txbufBase : Byte
  /-- PMIN and PMAX of the chip variant (R226). -/
  pmin : Int
  pmax : Int
  /-- TX_TIMEOUT, RX_NO_TIMEOUT, RX_SINGLE: arguments of TimeoutBytes (R102). -/
  txTimeout : Nat
  rxNoTimeout : Nat
  rxSingle : Nat
  /-- FSK_RXTO: the narrowband receive timeout from a byte budget (R233). -/
  fskRxto : BitVec 16 → Nat
  /-- TXDONE_FIXUP(kind) (R248). -/
  txdoneFixup : Kind → Tick
  /-- RXDONE_FIXUP(LORA, bw, sf) (R249). -/
  rxdoneFixupLora : BitVec 4 → BitVec 4 → Tick
  /-- RXDONE_FIXUP(FSK, _, _): it does not depend on BW or SF (R249). -/
  rxdoneFixupFsk : Tick
  /-- AIRTIME(cfg, len) (R11, R249). -/
  airtime : AirKey → BitVec 8 → Tick
  /-- COLD_FLAG, STDBY_CFG, REGMODE: one-byte payloads (R100). -/
  coldFlag : Byte
  stdbyCfg : Byte
  regmode : Byte
  /-- AUXCFG: TCXO_PIN and AUX_FRAMES (R219). -/
  tcxoPin : Bool
  auxFrames : List (Byte × List Byte)
  /-- SFSet, BWSet, CRSet (R10). -/
  sfSet : List (BitVec 4)
  bwSet : List (BitVec 4)
  crSet : List (BitVec 4)
  /-- RAND_DWELL in ticks, RAND_N bytes, RAND_ADDR (R242). -/
  randDwell : Nat
  randN : Nat
  randAddr : ChipAddr
  /-- IRQ_TXDONE, IRQ_RXDONE, IRQ_TIMEOUT (R103). -/
  irqTxdone : BitVec 16
  irqRxdone : BitVec 16
  irqTimeout : BitVec 16
  /-- SYNC_ADDR(kind), SYNC_LEN(kind) (R68, R219). -/
  syncAddr : Kind → ChipAddr
  syncLen : Kind → Nat
  /-- WHITE_ADDR, CRCSEED_ADDR, CRCPOLY_ADDR, SYMTO_ADDR (R68). -/
  whiteAddr : ChipAddr
  crcSeedAddr : ChipAddr
  crcPolyAddr : ChipAddr
  symtoAddr : ChipAddr
  /-- KindByte (R101). -/
  kindByte : Kind → Byte
  /-- ModBytes (R101). -/
  modLen : Nat
  modByte : ModKey → Nat → Byte
  /-- PktBytes (R101). -/
  pktLen : Nat
  pktByte : PktKey → Nat → Byte
  /-- PowBytes (R101). -/
  powLen : Nat
  powByte : Int → Nat → Byte
  /-- SymtoBytes (R101). -/
  symtoLen : Nat
  symtoByte : BitVec 16 → Nat → Byte
  /-- FreqWord and the length of FreqBytes (R102). -/
  freqLen : Nat
  freqWord : BitVec 32 → Nat
  /-- The timeout word and the length of TimeoutBytes (R102). -/
  timeoutLen : Nat
  timeoutWord : Nat → Nat
  /-- The routing bytes that follow IrqBytes(m) in IrqRouteBytes(m) (R103). -/
  routeLen : Nat
  routeByte : BitVec 16 → Nat → Byte
  /-- N_PKTSTATUS, RssiOf, SnrOf (R249). -/
  nPktStatus : Nat
  rssiOf : Kind → List Byte → BitVec 16
  snrOf : List Byte → BitVec 16
deriving Inhabited

/-- The constraints of R10, R103 and U16: 1 <= NJOBS <= 65534; opcode bytes pairwise distinct; interrupt masks
non-zero and pairwise disjoint; PMIN <= PMAX; 0 <= RAND_DWELL <= SAFE_SPAN; CHK_VALUE is CHK_LEN bytes (log entry
35). No length of an encoder has a lower bound, since none is stated: SYNC_LEN(kind) and the length of SymtoBytes may be 0
(log entry 38). Nor has any of RAND_N, CHK_LEN, SYNC_LEN(kind), N_PKTSTATUS, the encoder lengths and the AUX_FRAMES an
upper bound, so a configuration may form a frame longer than R65 says (DESIGN CHOICE, log entry 40). -/
def Params.ok (p : Params) : Bool :=
  decide (1 ≤ p.njobs) && decide (p.njobs ≤ 65534)
    && decide ((OpcName.all.map p.opc).Nodup)
    && p.irqTxdone != 0#16 && p.irqRxdone != 0#16 && p.irqTimeout != 0#16
    && p.irqTxdone &&& p.irqRxdone == 0#16 && p.irqTxdone &&& p.irqTimeout == 0#16
    && p.irqRxdone &&& p.irqTimeout == 0#16
    && decide (p.pmin ≤ p.pmax) && decide (p.randDwell ≤ SAFE_SPAN)
    && p.chkValue.length == p.chkLen

/-- One legal configuration, used by the tests and as the fallback of `Config.params`. Its numbers are the test values
of 95_test_vectors.md where that file names one (NJOBS = 8, PMIN = -9, PMAX = 22, TXDONE_FIXUP(LORA) = 43,
RXDONE_FIXUP = 300, AIRTIME = 5000, HAS_RESET) and otherwise arbitrary; they describe no chip. -/
def Params.sample : Params where
  njobs := 8
  tickHz := 32768
  lateTol := 0
  wdTimeout := 1000
  exactOvershoot := 0
  hasReset := true
  chkAddr := 0x0740#16
  chkLen := 1
  chkValue := [0x14#8]
  opc := fun
    | .sleep => 0x84 | .standby => 0x80 | .fs => 0xC1 | .tx => 0x83 | .txcw => 0xD1 | .rx => 0x82 | .regmode => 0x96
    | .pkttype => 0x8A | .freq => 0x86 | .modparams => 0x8B | .pktparams => 0x8C | .clrirq => 0x02
    | .irqparams => 0x08 | .txparams => 0x8E | .getirq => 0x12 | .rxbufstatus => 0x13 | .pktstatus => 0x14
    | .wreg => 0x0D | .rreg => 0x1D | .wbuf => 0x0E | .rbuf => 0x1E
  txbufBase := 0x00#8
  pmin := -9
  pmax := 22
  txTimeout := 0x10
  rxNoTimeout := 0xFF
  rxSingle := 0
  fskRxto := fun n => n.toNat
  txdoneFixup := fun | .lora => 43#32 | .fsk => 0#32
  rxdoneFixupLora := fun _ _ => 300#32
  rxdoneFixupFsk := 0#32
  airtime := fun _ _ => 5000#32
  coldFlag := 0x01#8
  stdbyCfg := 0x00#8
  regmode := 0x01#8
  tcxoPin := false
  auxFrames := []
  sfSet := [7#4, 8#4, 9#4, 10#4, 11#4, 12#4]
  bwSet := [0#4, 1#4, 2#4]
  crSet := [1#4, 2#4, 3#4, 4#4]
  randDwell := 3
  randN := 4
  randAddr := 0x0819#16
  irqTxdone := 0x0001#16
  irqRxdone := 0x0002#16
  irqTimeout := 0x0200#16
  syncAddr := fun | .lora => 0x0740#16 | .fsk => 0x06C0#16
  syncLen := fun | .lora => 2 | .fsk => 3
  whiteAddr := 0x06B8#16
  crcSeedAddr := 0x06BC#16
  crcPolyAddr := 0x06BE#16
  symtoAddr := 0x0706#16
  kindByte := fun | .fsk => 0x00#8 | .lora => 0x01#8
  modLen := 1
  modByte := fun k _ => (k.sf.getD 0#4).setWidth 8
  pktLen := 1
  pktByte := fun k _ => k.datalen
  powLen := 1
  powByte := fun x _ => BitVec.ofInt 8 x
  symtoLen := 1
  symtoByte := fun n _ => n.setWidth 8
  freqLen := 4
  freqWord := fun f => f.toNat
  timeoutLen := 1
  timeoutWord := fun t => t
  routeLen := 0
  routeByte := fun _ _ => 0#8
  nPktStatus := 1
  rssiOf := fun _ bs => (bs.getD 0 0#8).signExtend 16
  snrOf := fun bs => (bs.getD 0 0#8).signExtend 16

/-- The configuration the platform declares. It has no body: every OPEN parameter of R10 is free. -/
opaque Config.declared : Params

/-- The configuration of this hardware: the declared one, which U16 says must meet its constraints (a value outside
them is not a configuration of this hardware; the fallback keeps the definition total). -/
def Config.params : Params :=
  if Config.declared.ok then Config.declared else Params.sample

/-- Whether the platform has the optional debug output of R270 (2). -/
opaque Config.debugOutput : Bool

/-- CHIP's answer to a transfer for which no script gives one (R56 (3), U10: any value), by draw number. -/
opaque Config.chipByte : Nat → Byte

/-- How many busy polls answer 1 before the first 0, in a frame for which no script says (R56 (3), R192). -/
opaque Config.busyPolls : Nat → Nat

/-- Which answer a sleep gives when an event is pending and no script says (R175 b, U13): true is INTERRUPTED. -/
opaque Config.sleepTie : Nat → Bool

end Sys2Proof
end

