-- ==== Sys2Proof/Syntax.lean ====
section
/-!
DEFINITION. The operations of the block, one constructor for each row of spec/opcode_table.json: the fifteen commands of
30_encoding.md R87, the three internal operations of R88, the six frame shapes of R97 and the chip commands of R100.
-/

namespace Sys2Proof

/-- One operation. Operands are those of the defining rule; what an operation reads from RCFG, FRAME or the parameters
is no operand. -/
inductive Instr where
  /-- GETTICK (R116). -/
  | gettick
  /-- GETXTIME (R117). -/
  | getxtime
  /-- SCHED j, dl, cb, fl (R136). -/
  | sched (job : JobId) (dl : Tick) (cb : CbId) (fl : FlagSet)
  /-- CANCEL j (R145). -/
  | cancel (job : JobId)
  /-- SCHEDX j, xdl, cb (R150). -/
  | schedx (job : JobId) (xdl : XTime) (cb : CbId)
  /-- RUNSTEP (R165). -/
  | runstep
  /-- RUNLOOP (R177). -/
  | runloop
  /-- CBRET (R171). -/
  | cbret
  /-- IRQDIS (R182). -/
  | irqdis
  /-- IRQEN (R183). -/
  | irqen
  /-- RINIT (R220). -/
  | rinit
  /-- RTX mode (R224); mode is continuousWave. -/
  | rtx (mode : Bool)
  /-- RRX mode (R230); mode is continuous. -/
  | rrx (mode : Bool)
  /-- RSLEEP (R240). -/
  | rsleep
  /-- RRAND (R242). -/
  | rrand
  /-- RIRQ, the interrupt-edge entry (R245). -/
  | rirq
  /-- XSTEP(j), the intermediate self-callback (R152). -/
  | xstep (job : JobId)
  /-- RPROC, the processing callback (R247). -/
  | rproc
  /-- BCMD(op, p) (R195). -/
  | bcmd (op : Byte) (payload : List Byte)
  /-- BREAD(op, n) (R196). -/
  | bread (op : Byte) (n : Nat)
  /-- BWREG(addr, v) (R197). -/
  | bwreg (addr : ChipAddr) (data : List Byte)
  /-- BRREG(addr, n) (R198). -/
  | brreg (addr : ChipAddr) (n : Nat)
  /-- BWBUF(off, v) (R199). -/
  | bwbuf (off : Byte) (data : List Byte)
  /-- BRBUF(off, n) (R200). -/
  | brbuf (off : Byte) (n : Nat)
  /-- CC_SLEEP, payload COLD_FLAG (R100). -/
  | ccSleep
  /-- CC_STANDBY, payload STDBY_CFG (R100). -/
  | ccStandby
  /-- CC_FS (R100). -/
  | ccFs
  /-- CC_TX, payload TimeoutBytes(TX_TIMEOUT) (R100). -/
  | ccTx
  /-- CC_TXCW (R100). -/
  | ccTxcw
  /-- CC_RX, payload TimeoutBytes(t) (R100). -/
  | ccRx (timeout : Nat)
  /-- CC_REGMODE, payload REGMODE (R100). -/
  | ccRegmode
  /-- CC_PKTTYPE, payload KindByte(KIND) (R100). -/
  | ccPkttype
  /-- CC_FREQ, payload FreqBytes(FREQ) (R100). -/
  | ccFreq
  /-- CC_MODPARAMS, payload ModBytes(RCFG) (R100). -/
  | ccModparams
  /-- CC_PKTPARAMS, payload PktBytes(RCFG, dir) (R100). -/
  | ccPktparams (dir : Dir)
  /-- CC_CLRIRQ, payload IrqBytes(IRQ_ALL) (R100). -/
  | ccClrirq
  /-- CC_IRQPARAMS, payload IrqRouteBytes(mask) (R100). -/
  | ccIrqparams (mask : BitVec 16)
  /-- CC_TXPARAMS, payload PowBytes(p) (R100). -/
  | ccTxparams (power : Int)
  /-- CC_GETIRQ, 2 bytes in (R100). -/
  | ccGetirq
  /-- CC_RXBUFSTATUS, 2 bytes in: length, start offset (R100). -/
  | ccRxbufstatus
  /-- CC_PKTSTATUS, N_PKTSTATUS bytes in (R100). -/
  | ccPktstatus
  /-- WREG(addr, data) (R100). -/
  | wreg (addr : ChipAddr) (data : List Byte)
  /-- RREG(addr, n) (R100). -/
  | rreg (addr : ChipAddr) (n : Nat)
  /-- WBUF(off, data) (R100). -/
  | wbuf (off : Byte) (data : List Byte)
  /-- RBUF(off, n) (R100). -/
  | rbuf (off : Byte) (n : Nat)
deriving DecidableEq, Repr

/-- Whether the operation is one of the fifteen that a command word selects (R87). -/
def Instr.isCommand : Instr → Bool
  | .gettick | .getxtime | .sched .. | .cancel _ | .schedx .. | .runstep | .runloop | .cbret | .irqdis | .irqen
  | .rinit | .rtx _ | .rrx _ | .rsleep | .rrand => true
  | .rirq | .xstep _ | .rproc | .bcmd .. | .bread .. | .bwreg .. | .brreg .. | .bwbuf .. | .brbuf ..
  | .ccSleep | .ccStandby | .ccFs | .ccTx | .ccTxcw | .ccRx _ | .ccRegmode | .ccPkttype | .ccFreq | .ccModparams
  | .ccPktparams _ | .ccClrirq | .ccIrqparams _ | .ccTxparams _ | .ccGetirq | .ccRxbufstatus | .ccPktstatus
  | .wreg .. | .rreg .. | .wbuf .. | .rbuf .. => false

end Sys2Proof
end

