-- ==== Sys2Proof/WellFormed.lean ====
section
/-!
DEFINITION. Which operations are well formed: the operand checks of 30_encoding.md R91 and R92 for the commands, and the
operand ranges of 43_bus.md R197, R65 and 44_radio.md R226 for the bus rows.
-/

namespace Sys2Proof

/-- A job id is legal in a command word when it is below NJOBS (R91). Job 0 always is, since 1 <= NJOBS (R10); the match
says so without looking at the parameter. -/
def jobLegal (p : Params) (j : JobId) : Bool :=
  match j.toNat with
  | 0 => true
  | k + 1 => decide (k + 1 < p.njobs)

/-- A callback id is legal in a command word when it is below 0xFFFFFFF0 (R92). -/
def cbLegal (cb : CbId) : Bool :=
  cb.ult CB_RESERVED

/-- The operand checks, under a configuration. Only the buffer rows have an upper bound on their length (R43, R199, R200):
BCMD, BREAD, BWREG and BRREG, and WREG and RREG, of any length are admitted, beyond the longest frame of R65 too (DESIGN
CHOICE, log entry 40). -/
def Instr.wellFormedWith (p : Params) : Instr → Bool
  | .sched j _ cb _ => jobLegal p j && cbLegal cb
  | .cancel j => jobLegal p j
  | .schedx j _ cb => jobLegal p j && cbLegal cb
  | .xstep j => jobLegal p j
  | .bwreg _ v => !v.isEmpty
  | .wreg _ v => !v.isEmpty
  | .bwbuf _ v => decide (v.length ≤ MAX_LEN)
  | .wbuf _ v => decide (v.length ≤ MAX_LEN)
  | .brbuf _ n => decide (n ≤ MAX_LEN)
  | .rbuf _ n => decide (n ≤ MAX_LEN)
  | .ccTxparams x => decide (p.pmin ≤ x) && decide (x ≤ p.pmax)
  | .gettick | .getxtime | .runstep | .runloop | .cbret | .irqdis | .irqen | .rinit | .rtx _ | .rrx _ | .rsleep
  | .rrand | .rirq | .rproc | .bcmd .. | .bread .. | .brreg .. | .ccSleep | .ccStandby | .ccFs | .ccTx | .ccTxcw
  | .ccRx _ | .ccRegmode | .ccPkttype | .ccFreq | .ccModparams | .ccPktparams _ | .ccClrirq | .ccIrqparams _
  | .ccGetirq | .ccRxbufstatus | .ccPktstatus | .rreg .. => true

/-- Well formed on this hardware. -/
def Instr.wellFormed (i : Instr) : Bool :=
  i.wellFormedWith Config.params

end Sys2Proof
end

