-- ==== Sys2Proof/Decode.lean ====
section
/-!
DEFINITION. Decoding a command word (30_encoding.md R85, R86, R87, R94, R95) and, after it, encoding one. Decoding is total
on the 128-bit words and rejects each illegal word by the name of the check that refuses it.
-/

namespace Sys2Proof

/-- Why a word is illegal: the checks of R95, in the order that rule makes them. -/
inductive DecodeError where
  /-- W[15:11] is not zero (R95 step 1). -/
  | reservedBits
  /-- OP is none of the fifteen codes (R95 step 2). -/
  | unknownOp
  /-- A field the format does not use is not zero (R95 step 3). -/
  | unusedField
  /-- The job id is not legal (R91). -/
  | jobId
  /-- The callback id is reserved to the block (R92). -/
  | callbackId
deriving DecidableEq, Repr

/-! The fields of a command word (R85). -/

/-- OP = W[7:0]. -/
def CmdWord.op (w : CmdWord) : BitVec 8 := w.extractLsb' 0 8
/-- FL = W[10:8]. -/
def CmdWord.fl (w : CmdWord) : FlagSet := w.extractLsb' 8 3
/-- RSV = W[15:11]. -/
def CmdWord.rsv (w : CmdWord) : BitVec 5 := w.extractLsb' 11 5
/-- JOB = W[31:16]. -/
def CmdWord.job (w : CmdWord) : JobId := w.extractLsb' 16 16
/-- CB = W[63:32]. -/
def CmdWord.cb (w : CmdWord) : CbId := w.extractLsb' 32 32
/-- DL = W[127:64]. -/
def CmdWord.dl (w : CmdWord) : XTime := w.extractLsb' 64 64

/-- Format N: no operand (R86). -/
def decodeN (w : CmdWord) (i : Instr) : Except DecodeError Instr :=
  if CmdWord.fl w = 0#3 ∧ CmdWord.job w = 0#16 ∧ CmdWord.cb w = 0#32 ∧ CmdWord.dl w = 0#64 then .ok i
  else .error .unusedField

/-- Format J: JOB (R86, R91). -/
def decodeJ (p : Params) (w : CmdWord) (mk : JobId → Instr) : Except DecodeError Instr :=
  if CmdWord.fl w = 0#3 ∧ CmdWord.cb w = 0#32 ∧ CmdWord.dl w = 0#64 then
    if jobLegal p (CmdWord.job w) then .ok (mk (CmdWord.job w)) else .error .jobId
  else .error .unusedField

/-- Format S: JOB, DL[31:0], CB, FL; DL[63:32] is zero (R86, R90, R91, R92). -/
def decodeS (p : Params) (w : CmdWord) (mk : JobId → Tick → CbId → FlagSet → Instr) : Except DecodeError Instr :=
  if (CmdWord.dl w).extractLsb' 32 32 = 0#32 then
    if jobLegal p (CmdWord.job w) then
      if cbLegal (CmdWord.cb w) then
        .ok (mk (CmdWord.job w) ((CmdWord.dl w).extractLsb' 0 32) (CmdWord.cb w) (CmdWord.fl w))
      else .error .callbackId
    else .error .jobId
  else .error .unusedField

/-- Format X: JOB, DL[63:0], CB; FL is zero (R86, R90, R91, R92). -/
def decodeX (p : Params) (w : CmdWord) (mk : JobId → XTime → CbId → Instr) : Except DecodeError Instr :=
  if CmdWord.fl w = 0#3 then
    if jobLegal p (CmdWord.job w) then
      if cbLegal (CmdWord.cb w) then .ok (mk (CmdWord.job w) (CmdWord.dl w) (CmdWord.cb w))
      else .error .callbackId
    else .error .jobId
  else .error .unusedField

/-- Format M: MODE = W[8]; W[10:9], JOB, CB, DL are zero (R86, R93). -/
def decodeM (w : CmdWord) (mk : Bool → Instr) : Except DecodeError Instr :=
  if (CmdWord.fl w).extractLsb' 1 2 = 0#2 ∧ CmdWord.job w = 0#16 ∧ CmdWord.cb w = 0#32 ∧ CmdWord.dl w = 0#64 then
    .ok (mk ((CmdWord.fl w).getLsbD 0))
  else .error .unusedField

/-- The operation map (R87), under a configuration; the order of the checks is R95's. -/
def decodeWith (p : Params) (w : CmdWord) : Except DecodeError Instr :=
  if CmdWord.rsv w ≠ 0#5 then .error .reservedBits
  else match (CmdWord.op w).toNat with
    | 0x01 => decodeN w .gettick
    | 0x02 => decodeN w .getxtime
    | 0x10 => decodeS p w .sched
    | 0x11 => decodeJ p w .cancel
    | 0x12 => decodeX p w .schedx
    | 0x20 => decodeN w .runstep
    | 0x21 => decodeN w .runloop
    | 0x22 => decodeN w .cbret
    | 0x28 => decodeN w .irqdis
    | 0x29 => decodeN w .irqen
    | 0x30 => decodeN w .rinit
    | 0x31 => decodeM w .rtx
    | 0x32 => decodeM w .rrx
    | 0x33 => decodeN w .rsleep
    | 0x34 => decodeN w .rrand
    | _ => .error .unknownOp

/-- Decoding on this hardware (R95 steps 1 to 4). -/
def decode (w : CmdWord) : Except DecodeError Instr :=
  decodeWith Config.params w

/-- The operation the decoder reads from a word of `nbits` bits, the bits above being zero; the words are numbered with
bit 0 least significant, as R85 numbers the command word. -/
def decodeTableWord (nbits w : Nat) : Option Instr :=
  match decode (BitVec.ofNat 128 (w % 2 ^ nbits)) with
  | .ok i => some i
  | .error _ => none

/-! ## Encoding -/

/-- A command word from its fields, the most significant first (R85). -/
def packWord (dl : XTime) (cb : CbId) (job : JobId) (rsv : BitVec 5) (fl : FlagSet) (op : BitVec 8) : CmdWord :=
  dl ++ cb ++ job ++ rsv ++ fl ++ op

/-- The word of format N. -/
def encodeN (op : BitVec 8) : CmdWord := packWord 0#64 0#32 0#16 0#5 0#3 op

/-- The word of format M. -/
def encodeM (op : BitVec 8) (mode : Bool) : CmdWord := packWord 0#64 0#32 0#16 0#5 (0#2 ++ BitVec.ofBool mode) op

/-- The word of a command (R86, R87); the rows that no command word selects (R88, R97, R100) have none. -/
def encode : Instr → Option CmdWord
  | .gettick => some (encodeN 0x01#8)
  | .getxtime => some (encodeN 0x02#8)
  | .sched j dl cb fl => some (packWord (0#32 ++ dl) cb j 0#5 fl 0x10#8)
  | .cancel j => some (packWord 0#64 0#32 j 0#5 0#3 0x11#8)
  | .schedx j xdl cb => some (packWord xdl cb j 0#5 0#3 0x12#8)
  | .runstep => some (encodeN 0x20#8)
  | .runloop => some (encodeN 0x21#8)
  | .cbret => some (encodeN 0x22#8)
  | .irqdis => some (encodeN 0x28#8)
  | .irqen => some (encodeN 0x29#8)
  | .rinit => some (encodeN 0x30#8)
  | .rtx mode => some (encodeM 0x31#8 mode)
  | .rrx mode => some (encodeM 0x32#8 mode)
  | .rsleep => some (encodeN 0x33#8)
  | .rrand => some (encodeN 0x34#8)
  | .rirq | .xstep _ | .rproc | .bcmd .. | .bread .. | .bwreg .. | .brreg .. | .bwbuf .. | .brbuf ..
  | .ccSleep | .ccStandby | .ccFs | .ccTx | .ccTxcw | .ccRx _ | .ccRegmode | .ccPkttype | .ccFreq | .ccModparams
  | .ccPktparams _ | .ccClrirq | .ccIrqparams _ | .ccTxparams _ | .ccGetirq | .ccRxbufstatus | .ccPktstatus
  | .wreg .. | .rreg .. | .wbuf .. | .rbuf .. => none

/-! ## Bus frames -/

/-- The chip command a frame belongs to, read from its opcode byte: "a test that identifies a frame reads the first
`Xfer` after it" (R203). The opcode bytes are pairwise distinct (R100). -/
def identifyOpcWith (p : Params) (b : Byte) : Option OpcName :=
  OpcName.all.find? fun n => p.opc n == b

/-- `identifyOpcWith` on this hardware. -/
def identifyOpc (b : Byte) : Option OpcName :=
  identifyOpcWith Config.params b

end Sys2Proof
end

