-- ==== Sys2Proof/Machine/State.lean ====
section
/-!
DEFINITION. The state of the block (10_state.md R20 to R45), the events it emits (R57), what the agents outside it do
(R9, R56), the reasons a step can stop, and the state after reset (R58, 70_reset_and_hazards.md R310 to R312).
-/

namespace Sys2Proof.Machine

/-! ## Values of the registers -/

/-- RL_STATE (R32). -/
inductive RlState where
  | stopped
  | sleeping
  | dispatching
deriving DecidableEq, Repr

/-- ROP, the active radio operation (R38). -/
inductive Rop where
  | idle
  | tx
  | txcw
  | rxs
  | rxc
deriving DecidableEq, Repr

/-- CHIPMODE, the mode the driver has last commanded (R39). -/
inductive ChipMode where
  | unknown
  | sleep
  | standby
  | fs
  | tx
  | rx
deriving DecidableEq, Repr

/-- The chip-select latch (R45). -/
inductive CsLevel where
  | asserted
  | deasserted
deriving DecidableEq, Repr

/-- The reset-line latch (R45). -/
inductive RstLevel where
  | low
  | float
deriving DecidableEq, Repr

/-- The antenna-path latch (R45). -/
inductive AntPath where
  | off
  | rx
  | tx
deriving DecidableEq, Repr

/-- The sleep mode of `SleepUntil` (R52). -/
inductive SleepMode where
  | exact
  | approx
deriving DecidableEq, Repr

/-- The causes of HardFault (60_exceptions.md R266). -/
inductive FaultCode where
  | resetReadback
  | irqInconsistent
  | unreachable
  | watchdog
  | assertion
  | illegalCmd
deriving DecidableEq, Repr

/-- The numbers of R266. -/
def FaultCode.code : FaultCode → BitVec 8
  | .resetReadback => 0x01#8
  | .irqInconsistent => 0x02#8
  | .unreachable => 0x03#8
  | .watchdog => 0x04#8
  | .assertion => 0x05#8
  | .illegalCmd => 0x06#8

/-- The warning code TIMING (R267). -/
def WARN_TIMING : BitVec 8 := 0x01#8

/-! ## Records -/

/-- One job record (R24, R26). -/
structure JobRec where
  /-- DL, the deadline. -/
  dl : Tick
  /-- CB, the callback id. -/
  cb : CbId
  /-- FL, the flag set (R25). -/
  fl : FlagSet
  /-- XDL, the wide target deadline (R26). -/
  xdl : XTime
  /-- XCB, the final callback id (R26). -/
  xcb : CbId
deriving DecidableEq, Repr

/-- The record a slot holds after reset. R58 gives no value; this one is log entry 2. DESIGN CHOICE, unsafe. -/
def JobRec.reset : JobRec := ⟨0#32, 0#32, 0#3, 0#64, 0#32⟩

/-- RCFG, the shared radio configuration record: the input fields of R41 and the result fields of R42. SYNC and RAND
have a width that is OPEN (8*SYNC_LEN, 8*RAND_N) and are held as numbers. -/
structure Rcfg where
  freq : BitVec 32
  kind : Kind
  sf : BitVec 4
  bw : BitVec 4
  cr : BitVec 4
  lro : Bool
  preamble : BitVec 16
  hdrmode : Bool
  crcen : Bool
  iqinv : Bool
  sync : Nat
  whiteSeed : BitVec 16
  crcSeed : BitVec 16
  crcPoly : BitVec 16
  /-- TXPOW, 8 bits, signed. -/
  txpow : BitVec 8
  rxsyms : BitVec 16
  rxtime : Tick
  /-- DATALEN: input for transmit, result for receive. -/
  datalen : BitVec 8
  txend : Tick
  rxend : Tick
  rxstart : Tick
  /-- RSSI, 16 bits, signed. -/
  rssi : BitVec 16
  /-- SNR, 16 bits, signed. -/
  snr : BitVec 16
  timedout : Bool
  rand : Nat
deriving DecidableEq, Repr

/-- RCFG after reset. R58 gives no value; these are log entry 4. DESIGN CHOICE, unsafe. -/
def Rcfg.reset : Rcfg where
  freq := 0#32
  kind := .fsk
  sf := 0#4
  bw := 0#4
  cr := 0#4
  lro := false
  preamble := 0#16
  hdrmode := false
  crcen := false
  iqinv := false
  sync := 0
  whiteSeed := 0#16
  crcSeed := 0#16
  crcPoly := 0#16
  txpow := 0#8
  rxsyms := 0#16
  rxtime := 0#32
  datalen := 0#8
  txend := 0#32
  rxend := 0#32
  rxstart := 0#32
  rssi := 0#16
  snr := 0#16
  timedout := false
  rand := 0

/-- What a byte of FRAME that nothing has written reads as. R43 leaves it unspecified; log entry 5. DESIGN CHOICE,
unsafe. -/
def Memory.unwritten : Byte := 0x00#8

/-! ## Events, inputs and agents -/

/-- The output events of R57. -/
inductive Event where
  | resp (v : BitVec 64)
  | dispatch (j : JobId) (cb : CbId)
  | complete (kind : Dir)
  | late (j : JobId) (ticks : Int)
  | warn (code : BitVec 8)
  | fatal (code : BitVec 8)
  | debug (code : BitVec 8)
  | irqMask (m : Bool)
  | sleepUntil (d : Tick) (mode : SleepMode)
  | sleepForever
  | wdArm
  | wdDisarm
  | cs (v : CsLevel)
  | xfer (o : Byte)
  | busyPoll
  | pinRst (v : RstLevel)
  | pinAnt (v : AntPath)
  | pinTcxo (v : Bool)
deriving DecidableEq, Repr

/-- A step of an agent other than SEQ and HOST that may fall between any two lines of an operation (R9, R56). -/
inductive EnvEvent where
  /-- CLK takes n steps (R115). -/
  | clk (n : Nat)
  /-- CHIP's data-ready line transitions (R246). -/
  | edge
  /-- WDG expires (R276). -/
  | wdg
deriving DecidableEq, Repr

/-- The answer of a sleep call (R52). -/
inductive SleepAnswer where
  | reached
  | interrupted
deriving DecidableEq, Repr

/-- Whose turn it is between two operations of SEQ (R9). -/
inductive Turn where
  /-- CLK, CHIP's data-ready line or WDG. -/
  | env (e : EnvEvent)
  /-- HAL's sleep call returns with this answer (R175); `interrupted` stands for an external hardware event too. -/
  | sleepReturns (a : SleepAnswer)
  /-- The platform resets the block; the tick source then reads x, which is below 2^(XT_W-1) (R310, R312). -/
  | platformReset (x : BitVec (XT_W - 1))
  /-- SEQ. -/
  | seq
deriving DecidableEq, Repr

/-- A write of HOST to the shared record in its window (R40): an input field of R41, or a byte of FRAME (R43). -/
inductive HostWrite where
  | freq (v : BitVec 32)
  | kind (v : Kind)
  | sf (v : BitVec 4)
  | bw (v : BitVec 4)
  | cr (v : BitVec 4)
  | lro (v : Bool)
  | preamble (v : BitVec 16)
  | hdrmode (v : Bool)
  | crcen (v : Bool)
  | iqinv (v : Bool)
  | sync (v : Nat)
  | whiteSeed (v : BitVec 16)
  | crcSeed (v : BitVec 16)
  | crcPoly (v : BitVec 16)
  | txpow (v : BitVec 8)
  | rxsyms (v : BitVec 16)
  | rxtime (v : Tick)
  | datalen (v : BitVec 8)
  | frame (addr : Nat) (v : Byte)
deriving DecidableEq, Repr

/-- What HOST does next at its two inward ports (R55). -/
inductive HostAct where
  /-- A command word at the command port. -/
  | cmd (w : CmdWord)
  /-- A write to the shared record. -/
  | write (w : HostWrite)
deriving DecidableEq, Repr

/-! ## State -/

/-- The whole machine. The fields down to `tcxo` are the spec's (R20); the last nine are the MODEL's own: the output
trace, the inputs that are still to come, and what the spec leaves implicit. -/
structure State where
  /-- XTIME (R21); TICK is its low half (R22). -/
  xtime : XTime
  /-- The job-record store (R24), keyed by job id; a slot that is not listed holds `JobRec.reset`. -/
  jobs : List (Nat × JobRec)
  /-- Q, head first (R28). -/
  q : List JobId
  /-- EXACT_CNT (R30). -/
  exactCnt : BitVec CNT_W
  /-- RL_STATE (R32). -/
  rlState : RlState
  /-- RL_LOOP (R32). -/
  rlLoop : Bool
  /-- CUR_JOB (R32). -/
  curJob : JobId
  /-- WD_ARMED (R33). -/
  wdArmed : Bool
  /-- LATE_CNT (R34). -/
  lateCnt : BitVec 32
  /-- IRQ_NEST (R35). -/
  irqNest : BitVec NEST_W
  /-- IRQ_PEND (R36). -/
  irqPend : Bool
  /-- IRQ_TS (R36). -/
  irqTs : Tick
  /-- RSLEEP (R37). -/
  rsleep : Bool
  /-- ROP (R38). -/
  rop : Rop
  /-- CHIPMODE (R39). -/
  chipMode : ChipMode
  /-- RCFG (R40 to R42). -/
  rcfg : Rcfg
  /-- FRAME (R43): the bytes that differ from `Memory.unwritten`, addresses rising. -/
  frame : List Host.Cell
  /-- FAULT (R44). -/
  fault : Bool
  /-- FAULT_CODE (R44). -/
  faultCode : BitVec 8
  /-- CS (R45). -/
  cs : CsLevel
  /-- RST (R45). -/
  rst : RstLevel
  /-- ANT (R45). -/
  ant : AntPath
  /-- TCXO (R45). -/
  tcxo : Bool
  /-- MODEL. SEQ is inside a bus frame whose busy line never clears (R192, U9). -/
  hung : Bool
  /-- MODEL. The output trace, oldest event first (R57). -/
  trace : List Event
  /-- MODEL. What HOST does, next first (R55, R56 (4)). -/
  host : List HostAct
  /-- MODEL. Whose turn it is between operations, next first; none left means SEQ's (R9). -/
  turns : List Turn
  /-- MODEL. What the other agents do at each interaction point inside operations, next first (R70, R115, R283). -/
  moments : List (List EnvEvent)
  /-- MODEL. For each coming frame, how many busy polls answer 1 first; `none` is a line that never clears (R192). -/
  busyIn : List (Option Nat)
  /-- MODEL. The bytes CHIP answers to the coming transfers, next first (R56 (3)). -/
  chipIn : List Byte
  /-- MODEL. How many oracle answers no script gave: the argument of the next free value of Config. -/
  draws : Nat
  /-- MODEL. The data bytes the last bus frame returned (R190). -/
  busData : List Byte
deriving DecidableEq, Repr

/-- TICK, the view of XTIME that is no state of its own (R22). -/
def State.tick (s : State) : Tick := s.xtime.setWidth TICK_W

/-- IRQ_MASK, the view of IRQ_NEST (R35). -/
def State.irqMask (s : State) : Bool := s.irqNest != 0#NEST_W

/-- Why a step stops as a fault of the model. A HardFault is none of these: it is a next state with FAULT = 1 (R270). -/
inductive Fault where
  /-- HOST writes FRAME at an address of MAX_LEN or more, which R43 says does not exist. Raised by the write of the
  shared record only; no command forms such an address (R64). Safe. -/
  | frameAddress
deriving DecidableEq, Repr

/-- Why a step is refused. -/
inductive Refusal where
  /-- An operation that has no meaning in this model yet; raised by `exec` only. Safe. No arm raises it now. -/
  | notModelled (mnemonic : String)
deriving DecidableEq, Repr

/-- The machine right after reset: the table of R58, and for what R58 and R311 leave unspecified (XTIME, the job
records, IRQ_TS, RCFG, FRAME) the values of log entries 1 to 5. No input is scripted: HOST has issued nothing. -/
def State.reset : State where
  xtime := 0#64
  jobs := []
  q := []
  exactCnt := 0#CNT_W
  rlState := .stopped
  rlLoop := false
  curJob := NIL
  wdArmed := false
  lateCnt := 0#32
  irqNest := 0#NEST_W
  irqPend := false
  irqTs := 0#32
  rsleep := false
  rop := .idle
  chipMode := .unknown
  rcfg := Rcfg.reset
  frame := []
  fault := false
  faultCode := 0#8
  cs := .deasserted
  rst := .float
  ant := .off
  tcxo := false
  hung := false
  trace := []
  host := []
  turns := []
  moments := []
  busyIn := []
  chipIn := []
  draws := 0
  busData := []

end Sys2Proof.Machine
end

