-- ==== Sys2Proof/Machine/Flags.lean ====
section
/-!
DEFINITION. The comparison engine (40_clock.md R118 to R129) and the job flags (10_state.md R25). The block has no
arithmetic flags (R122); every decision on tick values is made from `sdiff` alone (R14, R124).
-/

namespace Sys2Proof.Machine

/-! ## Tick values -/

/-- sdiff(a, b) = signed_32((a - b) mod 2^32) (R118). -/
def sdiff (a b : Tick) : Int := (a - b).toInt

/-- due(d, t): deadline d is reached or passed at time t (R119). -/
def due (d t : Tick) : Bool := decide (sdiff d t ≤ 0)

/-- later(a, b): a is strictly later than b (R119). -/
def later (a b : Tick) : Bool := decide (sdiff a b > 0)

/-- notlater(a, b) (R119). -/
def notlater (a b : Tick) : Bool := decide (sdiff a b ≤ 0)

/-- a +_32 k for a distance k (R122). -/
def tickAdd (a : Tick) (k : Nat) : Tick := a + BitVec.ofNat TICK_W k

/-! ## Extended times -/

/-- xdiff(x, y), an unbounded signed integer (R126). -/
def xdiff (x y : XTime) : Int := (x.toNat : Int) - (y.toNat : Int)

/-- xt2tick(x) = x[31:0] (R127). -/
def xt2tick (x : XTime) : Tick := x.setWidth TICK_W

/-- tick2xt(t, xref) (R128). No operation uses it. -/
def tick2xt (t : Tick) (xref : XTime) : Int := (xref.toNat : Int) + sdiff t (xt2tick xref)

/-! ## The flag set of a job record (R25) -/

/-- FL[0], APPROX. -/
def flApprox (fl : FlagSet) : Bool := fl.getLsbD 0

/-- FL[1], IMMED. -/
def flImmed (fl : FlagSet) : Bool := fl.getLsbD 1

/-- FL[2], IRQOFF. -/
def flIrqOff (fl : FlagSet) : Bool := fl.getLsbD 2

/-- FL = APPROX. -/
def FL_APPROX : FlagSet := 0b001#3

/-- FL = IMMED. -/
def FL_IMMED : FlagSet := 0b010#3

/-- fl[1] <- 1. -/
def flSetImmed (fl : FlagSet) : FlagSet := fl ||| FL_IMMED

/-- Lines 4 and 5 of SCHED (R136, R138): a deadline that is immediate or due becomes `now`, and IMMED is set. -/
def normalise (now dl : Tick) (fl : FlagSet) : Tick × FlagSet :=
  if flImmed fl || due dl now then (now, flSetImmed fl) else (dl, fl)

end Sys2Proof.Machine
end

