-- ==== Sys2Proof/Machine/Store.lean ====
section
/-!
DEFINITION. Sparse stores in one canonical form: the job-record store (10_state.md R24) keyed by job id, and FRAME
(10_state.md R43, 20_memory.md R60) keyed by byte address. Addresses rise strictly and no entry holds what an unlisted
address reads as, so that equal contents are equal data.
-/

namespace Sys2Proof.Machine

/-- The value at a key; `d` is what an unlisted key reads as. -/
def storeGet {α : Type} (d : α) : List (Nat × α) → Nat → α
  | [], _ => d
  | (b, v) :: rest, a => if b = a then v else storeGet d rest a

/-- Writes a value at a key and keeps the canonical form: writing `d` removes the entry. -/
def storePut {α : Type} [DecidableEq α] (d : α) : List (Nat × α) → Nat → α → List (Nat × α)
  | [], a, v => if v = d then [] else [(a, v)]
  | (b, w) :: rest, a, v =>
    if b < a then (b, w) :: storePut d rest a v
    else if b = a then (if v = d then rest else (a, v) :: rest)
    else (if v = d then (b, w) :: rest else (a, v) :: (b, w) :: rest)

/-- The canonical form: keys strictly rising, no entry equal to `d`. -/
abbrev storeCanonical {α : Type} [DecidableEq α] (d : α) (m : List (Nat × α)) : Prop :=
  (m.map Prod.fst).Pairwise (· < ·) ∧ ∀ c ∈ m, c.2 ≠ d

/-! ## FRAME -/

/-- The form of FRAME: canonical, and every listed address below MAX_LEN (R43). -/
abbrev Memory.wf (m : List Host.Cell) : Prop :=
  storeCanonical Memory.unwritten m ∧ ∀ c ∈ m, c.1 < MAX_LEN

/-- FRAME[a]. -/
def Memory.read (m : List Host.Cell) (a : Nat) : Byte := storeGet Memory.unwritten m a

/-- FRAME[a] <- v. An address of MAX_LEN or more does not exist (R43) and holds nothing; HOST's write of one is
the fault `frameAddress`, and no operation of the block forms one (R64). -/
def Memory.write (m : List Host.Cell) (a : Nat) (v : Byte) : List Host.Cell :=
  if a < MAX_LEN then storePut Memory.unwritten m a v else m

/-- FRAME[a], FRAME[a+1], ... <- vs (MemWrite(FRAME, ...), R16). -/
def Memory.writeFrom (m : List Host.Cell) (a : Nat) : List Byte → List Host.Cell
  | [] => m
  | v :: vs => Memory.writeFrom (Memory.write m a v) (a + 1) vs

/-- The n bytes from address a (MemRead(FRAME, ...), R16). -/
def Memory.readFrom (m : List Host.Cell) (a : Nat) : Nat → List Byte
  | 0 => []
  | n + 1 => Memory.read m a :: Memory.readFrom m (a + 1) n

/-! ## JOBS -/

/-- The record of job j (R15). -/
def State.job (s : State) (j : JobId) : JobRec := storeGet JobRec.reset s.jobs j.toNat

/-- Writes the record of job j (R15). -/
@[simps]
def State.setJob (s : State) (j : JobId) (r : JobRec) : State :=
  { s with jobs := storePut JobRec.reset s.jobs j.toNat r }

end Sys2Proof.Machine
end

