-- ==== Sys2Proof/Machine/Operands.lean ====
section
/-!
DEFINITION. The byte forms of what goes over the bus (20_memory.md R62, 30_encoding.md R100 to R103): byte order, the
payload encoders over the OPEN parameters, and the power clamp (44_radio.md R226).
-/

namespace Sys2Proof.Machine

/-- The n low bytes of a number, most significant first (R62). -/
def bytesBE : Nat → Nat → List Byte
  | 0, _ => []
  | n + 1, v => BitVec.ofNat 8 (v >>> (8 * n)) :: bytesBE n v

/-- The number whose bytes these are, most significant first (R62). -/
def ofBytesBE (bs : List Byte) : Nat := bs.foldl (fun acc b => acc * 256 + b.toNat) 0

/-- addr of WREG and RREG as its ADDR_BYTES bytes, high byte first (R102). -/
def addrBytes (a : ChipAddr) : List Byte := bytesBE ADDR_BYTES a.toNat

/-- A 16-bit value as two bytes, high byte first: an IRQ mask (R103), a seed (R218). -/
def bytes16 (v : BitVec 16) : List Byte := [v.extractLsb' 8 8, v.extractLsb' 0 8]

/-- The word {b0, b1} (R103). -/
def word16 (b0 b1 : Byte) : BitVec 16 := b0 ++ b1

/-- The bytes of an encoder of fixed length n (R101). -/
def fixedBytes (n : Nat) (f : Nat → Byte) : List Byte := (List.range n).map f

/-- A field that is read only when KIND = LORA (R41, R219 c). -/
def Rcfg.loraOnly {α : Type} (r : Rcfg) (v : α) : Option α :=
  match r.kind with
  | .lora => some v
  | .fsk => none

/-- What ModBytes reads of RCFG (R101). -/
def Rcfg.modKey (r : Rcfg) : ModKey := ⟨r.kind, r.loraOnly r.sf, r.bw, r.loraOnly r.cr, r.lro⟩

/-- What PktBytes reads of RCFG, by direction (R101). -/
def Rcfg.pktKey (r : Rcfg) (dir : Dir) : PktKey :=
  ⟨r.kind, r.preamble, r.hdrmode, r.datalen, r.crcen, match dir with | .tx => none | .rx => some r.iqinv⟩

/-- What AIRTIME reads of RCFG (R249). -/
def Rcfg.airKey (r : Rcfg) : AirKey :=
  ⟨r.kind, r.loraOnly r.sf, r.bw, r.loraOnly r.cr, r.lro, r.preamble, r.hdrmode, r.crcen⟩

/-- ModBytes(RCFG) (R101). -/
def modBytes (p : Params) (r : Rcfg) : List Byte := fixedBytes p.modLen (p.modByte r.modKey)

/-- PktBytes(RCFG, dir) (R101). -/
def pktBytes (p : Params) (r : Rcfg) (dir : Dir) : List Byte := fixedBytes p.pktLen (p.pktByte (r.pktKey dir))

/-- PowBytes(x) (R101). -/
def powBytes (p : Params) (x : Int) : List Byte := fixedBytes p.powLen (p.powByte x)

/-- SymtoBytes(RXSYMS) (R101). -/
def symtoBytes (p : Params) (n : BitVec 16) : List Byte := fixedBytes p.symtoLen (p.symtoByte n)

/-- FreqBytes(FREQ), most significant byte first (R102). -/
def freqBytes (p : Params) (f : BitVec 32) : List Byte := bytesBE p.freqLen (p.freqWord f)

/-- TimeoutBytes(t), most significant byte first (R102). -/
def timeoutBytes (p : Params) (t : Nat) : List Byte := bytesBE p.timeoutLen (p.timeoutWord t)

/-- SyncBytes(SYNC): SYNC_LEN(KIND) bytes, most significant first (R219 b). -/
def syncBytes (p : Params) (r : Rcfg) : List Byte := bytesBE (p.syncLen r.kind) r.sync

/-- IRQ_ALL, the all-ones word (R103). -/
def IRQ_ALL : BitVec 16 := 0xFFFF#16

/-- IrqBytes(m), high byte first (R103). -/
def irqBytes (m : BitVec 16) : List Byte := bytes16 m

/-- IrqRouteBytes(m): IrqBytes(m) and the routing bytes (R103). -/
def irqRouteBytes (p : Params) (m : BitVec 16) : List Byte := irqBytes m ++ fixedBytes p.routeLen (p.routeByte m)

/-- The interrupt sources relevant to a direction (R218 line c11). -/
def irqMaskOf (p : Params) : Dir → BitVec 16
  | .tx => p.irqTxdone ||| p.irqTimeout
  | .rx => p.irqRxdone ||| p.irqTimeout

/-- clamp(x) on the signed value of TXPOW (R226). -/
def clampPower (p : Params) (pow : BitVec 8) : Int :=
  if pow.toInt < p.pmin then p.pmin else if pow.toInt > p.pmax then p.pmax else pow.toInt

/-- RXDONE_FIXUP(kind, bw, sf); for FSK it does not depend on bw or sf (R249). -/
def rxdoneFixup (p : Params) (kind : Kind) (bw sf : BitVec 4) : Tick :=
  match kind with
  | .lora => p.rxdoneFixupLora bw sf
  | .fsk => p.rxdoneFixupFsk

end Sys2Proof.Machine
end

