-- ==== Sys2Proof/Machine/Ops.lean ====
section
/-!
DEFINITION. The shared operations: events (00_scope.md R17), the fatal entry (60_exceptions.md R270) and reset beside it, the
queue primitives (41_scheduler.md R137 to R140), the interrupt entry RIRQ (44_radio.md R245), the interaction points at
which other agents act (20_memory.md R70), the nesting primitives (42_runloop.md R180, R181), the bus frame
(43_bus.md R190), and command acceptance (60_exceptions.md R268).
-/

namespace Sys2Proof.Machine

/-! ## Updates of the state -/

/-- emit E (R17, R57). -/
@[simps]
def State.emit (e : Event) (s : State) : State := { s with trace := s.trace ++ [e] }

/-- Fatal entry, raise HardFault(code) (R270): the first code is kept, `Debug` where there is a debug output, `Fatal`,
and no other state is written (R272). -/
def State.hardFault (c : FaultCode) (s : State) : State :=
  if s.fault then s
  else
    { s with
      fault := true
      faultCode := c.code
      trace := s.trace ++ (if Config.debugOutput then [.debug c.code] else []) ++ [.fatal c.code] }

/-- Reset, the only way out of a fault (R271, R310): every register takes its reset value at once; what the tick source
then reads is the platform's, below 2^(XT_W-1) (R312). The inputs still to come and the trace are not registers and stay. -/
def State.platformReset (x : BitVec (XT_W - 1)) (s : State) : State :=
  { State.reset with
    xtime := x.setWidth XT_W
    trace := s.trace
    host := s.host
    turns := s.turns
    moments := s.moments
    busyIn := s.busyIn
    chipIn := s.chipIn
    draws := s.draws }

/-! ## The queue (R15, R28) -/

/-- Whether j is in Q. -/
def State.queued (s : State) (j : JobId) : Bool := s.q.contains j

/-- unlink(j) (R137): the APPROX flag read is the one stored when j was queued. -/
def State.unlink (j : JobId) (s : State) : State :=
  if s.queued j then
    { s with
      exactCnt := if flApprox (s.job j).fl then s.exactCnt else s.exactCnt - 1
      q := s.q.filter (· != j) }
  else s

/-- Line 6 of SCHED (R136): the deadline, callback and flags of j are written; XDL and XCB stay (R26). -/
def State.writeJob (j : JobId) (dl : Tick) (cb : CbId) (fl : FlagSet) (s : State) : State :=
  s.setJob j { s.job j with dl := dl, cb := cb, fl := fl }

/-- Line 3 of SCHEDX (R150): the extended fields of j are written. -/
def State.writeExt (j : JobId) (xdl : XTime) (xcb : CbId) (s : State) : State :=
  s.setJob j { s.job j with xdl := xdl, xcb := xcb }

/-- Lines 7 and 8 of SCHED on a queue whose deadlines are read by `dlOf` (R139): j goes before the first entry that is
strictly later than dl, or at the tail. -/
def insertBefore (dlOf : JobId → Tick) (j : JobId) (dl : Tick) : List JobId → List JobId
  | [] => [j]
  | e :: rest => if later (dlOf e) dl then j :: e :: rest else e :: insertBefore dlOf j dl rest

/-- Lines 7 and 8 of SCHED (R139). -/
@[simps]
def State.enqueue (j : JobId) (dl : Tick) (s : State) : State :=
  { s with q := insertBefore (fun e => (s.job e).dl) j dl s.q }

/-- Line 9 of SCHED (R140). -/
@[simps]
def State.countExact (fl : FlagSet) (s : State) : State :=
  { s with exactCnt := if flApprox fl then s.exactCnt else s.exactCnt + 1 }

/-- Lines 3 to 9 of SCHED at the clock sample `now`, with nothing between them (R136). -/
def State.schedule (now : Tick) (j : JobId) (dl : Tick) (cb : CbId) (fl : FlagSet) (s : State) : State :=
  let n := normalise now dl fl
  (((s.unlink j).writeJob j n.1 cb n.2).enqueue j n.1).countExact n.2

/-! ## The interrupt entry and the other agents -/

/-- RIRQ (R245), to completion and indivisible (R283, R284; log entry 14): its SCHED' runs at IRQ_NEST = 0, so its
disable and enable show as the pair IrqMask(1), IrqMask(0). -/
def State.rirq (s : State) : State :=
  let now := s.tick
  let s1 := { s with irqPend := false, irqTs := now }
  ((s1.emit (.irqMask true)).schedule now RJOB now CB_RPROC FL_IMMED).emit (.irqMask false)

/-- RIRQ is taken exactly when IRQ_PEND = 1, IRQ_NEST = 0 and FAULT = 0 (R283). -/
def State.serveIrq (s : State) : State :=
  if s.irqPend && s.irqNest == 0#NEST_W && !s.fault then s.rirq else s

/-- One step of CLK, of the data-ready line, or of WDG (R115, R246, R276). An edge sets IRQ_PEND whatever IRQ_NEST is
(R282) and is served at once where that is possible; WDG acts only while WD_ARMED = 1 (D15). -/
def State.envEvent (e : EnvEvent) (s : State) : State :=
  match e with
  | .clk n => { s with xtime := s.xtime + BitVec.ofNat XT_W n }
  | .edge => State.serveIrq { s with irqPend := true }
  | .wdg => if s.wdArmed then s.hardFault .watchdog else s

/-- The steps other agents take at one interaction point, in order. -/
def State.envEvents (es : List EnvEvent) (s : State) : State :=
  es.foldl (fun t e => t.envEvent e) s

/-! ## Operations that run to completion, or stop part way -/

/-- Why an operation of SEQ ends before its last line. -/
inductive Stop where
  /-- HardFault was raised (R270 (4)). -/
  | fatal
  /-- A busy wait never ends (R192, U9). -/
  | hang
deriving DecidableEq, Repr

/-- An operation in progress: it answers and leaves a state, or stops in the state its lines so far have made. -/
abbrev Op := EStateM Stop State

/-- The state an operation leaves, however it ends (R272: what a faulting operation has done stands). -/
def runOp {α : Type} (m : Op α) (s : State) : State :=
  match m s with
  | .ok _ t => t
  | .error _ t => t

/-- A line of an operation that writes state. -/
def upd (f : State → State) : Op Unit := fun s => .ok () (f s)

/-- A line of an operation that reads state. -/
def rd {α : Type} (f : State → α) : Op α := fun s => .ok (f s) s

/-- emit E as a line (R17). -/
def emit (e : Event) : Op Unit := upd (State.emit e)

/-- raise HardFault(code) as a line: no later line runs (R270 (4)). -/
def raise {α : Type} (c : FaultCode) : Op α := fun s => .error .fatal (s.hardFault c)

/-- now <- TICK (R18). -/
def readTick : Op Tick := rd State.tick

/-- An interaction point between two lines, two polls or two transfers: CLK may step, an edge may arrive and be served,
WDG may expire and end the operation (R70, R115, R276, R283). With nothing scripted nothing happens. -/
def tau : Op Unit := fun s =>
  match s.moments with
  | [] => .ok () s
  | es :: rest =>
    let t := State.envEvents es { s with moments := rest }
    if t.fault then .error .fatal t else .ok () t

/-- irq_disable() (R180). -/
def irqDisable : Op Unit := fun s =>
  if s.irqNest = NEST_MAX then .error .fatal (s.hardFault .assertion)
  else
    let t := if s.irqNest = 0#NEST_W then s.emit (.irqMask true) else s
    .ok () { t with irqNest := t.irqNest + 1 }

/-- irq_enable() (R181); a pending RIRQ runs right after the `IrqMask(0)` (R283 b). -/
def irqEnable : Op Unit := fun s =>
  if s.irqNest = 0#NEST_W then .error .fatal (s.hardFault .assertion)
  else
    let t := { s with irqNest := s.irqNest - 1 }
    .ok () (if t.irqNest = 0#NEST_W then (t.emit (.irqMask false)).serveIrq else t)

/-- Lines 3 to 9 of SCHED with the interaction points between them, at the clock sample `now` (R136). -/
def scheduleOp (now : Tick) (j : JobId) (dl : Tick) (cb : CbId) (fl : FlagSet) : Op Unit := do
  let n := normalise now dl fl
  upd (State.unlink j)
  tau
  upd (State.writeJob j n.1 cb n.2)
  tau
  upd (State.enqueue j n.1)
  tau
  upd (State.countExact n.2)

/-- SCHED': lines 1 to 10 of SCHED without the response, at a clock sample its caller took (R152). -/
def schedPrime (now : Tick) (j : JobId) (dl : Tick) (cb : CbId) (fl : FlagSet) : Op Unit := do
  irqDisable
  tau
  scheduleOp now j dl cb fl
  tau
  irqEnable

/-- The clock when a wait for deadline d can end: XTIME itself if d is due, else the first time at which it is. -/
def dueTime (d : Tick) (x : XTime) : XTime :=
  if due d (xt2tick x) then x else x + BitVec.ofNat XT_W (sdiff d (xt2tick x)).toNat

/-- The busy wait "repeat t <- TICK until sdiff(d, t) <= 0" over the interaction points still scripted (R230 line 10,
R242 line 5). When none is left CLK alone acts, and it is fair (R115): the wait ends at the first due tick. -/
def waitDueWith (d : Tick) : List (List EnvEvent) → Op Unit
  | [], s => .ok () { s with moments := [], xtime := dueTime d s.xtime }
  | es :: rest, s =>
    if due d s.tick then .ok () { s with moments := es :: rest }
    else
      let t := State.envEvents es { s with moments := rest }
      if t.fault then .error .fatal t else waitDueWith d rest t

/-- The busy wait for deadline d. -/
def waitDue (d : Tick) : Op Unit := fun s => waitDueWith d s.moments s

/-! ## The bus frame (R190) -/

/-- CHIP's answer to one transfer: the scripted one, or a free value (R56 (3), U10). -/
def nextByte : Op Byte := fun s =>
  match s.chipIn with
  | b :: rest => .ok b { s with chipIn := rest }
  | [] => .ok (Config.chipByte s.draws) { s with draws := s.draws + 1 }

/-- How long the busy line of the next frame reads 1: the scripted answer, or a free number of polls (R192). -/
def nextBusy : Op (Option Nat) := fun s =>
  match s.busyIn with
  | b :: rest => .ok b { s with busyIn := rest }
  | [] => .ok (some (Config.busyPolls s.draws)) { s with draws := s.draws + 1 }

/-- Xfer(o) (R190, R193): the byte goes out and CHIP's answer is consumed. -/
def xfer (o : Byte) : Op Byte := do
  emit (.xfer o)
  nextByte

/-- n polls that answer 1 (R192). -/
def busyPolls : Nat → Op Unit
  | 0 => pure ()
  | n + 1 => do
    emit .busyPoll
    tau
    busyPolls n

/-- A busy line that never clears leaves SEQ in the wait for good (R192, U9); one of its polls is recorded. -/
def hang : Op Unit := fun s => .error .hang { s.emit .busyPoll with hung := true }

/-- Line 3 of Frame (R190, R192): polls until the busy line reads 0. -/
def busyAnswer : Option Nat → Op Unit
  | some n => do
    busyPolls n
    emit .busyPoll
  | none => hang

/-- Line 3 of Frame on the next answer of the busy line. -/
def busyWait : Op Unit := do
  let b ← nextBusy
  busyAnswer b

/-- Line 5 of Frame: bytes out, what comes back is discarded (R190, R193). -/
def sendAll : List Byte → Op Unit
  | [] => pure ()
  | o :: rest => do
    let _ ← xfer o
    tau
    sendAll rest

/-- Line 7 of Frame: n data bytes in, NOP_BYTE out (R190, R193). -/
def recvAll : Nat → Op (List Byte)
  | 0 => pure []
  | n + 1 => do
    let b ← xfer NOP_BYTE
    tau
    let bs ← recvAll n
    pure (b :: bs)

/-- Line 6 of Frame: the status byte is received and discarded (R190, R201). -/
def readStatus (st : Bool) : Op Unit :=
  if st then do
    let _ ← xfer NOP_BYTE
    tau
  else pure ()

/-- Frame(op, out, st, nin) (R190). The data bytes are returned, and kept in the MODEL's field busData. -/
def busFrame (op : Byte) (out : List Byte) (st : Bool) (nin : Nat) : Op (List Byte) := do
  upd fun s => { s with rsleep := false }
  tau
  upd fun s => { s.emit (.cs .asserted) with cs := .asserted }
  tau
  busyWait
  tau
  let _ ← xfer op
  tau
  sendAll out
  readStatus st
  let data ← recvAll nin
  upd fun s => { s.emit (.cs .deasserted) with cs := .deasserted, busData := data }
  pure data

/-! ## Command acceptance (R268) -/

/-- What R268 distinguishes among commands. -/
inductive CmdClass where
  /-- RUNSTEP and RUNLOOP. -/
  | runner
  /-- CBRET. -/
  | callbackReturn
  /-- Every other command. -/
  | plain
deriving DecidableEq, Repr

/-- The three answers of the table of R268. -/
inductive Acceptance where
  | accepted
  | assertFails
  | notTaken
deriving DecidableEq, Repr

/-- Whether the command port is read (R268): not after a fault, not while sleeping, not inside an operation that hangs,
not between two steps of RUNLOOP. -/
def State.portOpen (s : State) : Bool :=
  !s.fault && !s.hung && match s.rlState with
    | .stopped => !s.rlLoop
    | .sleeping => false
    | .dispatching => true

/-- The table of R268. -/
def State.acceptance (c : CmdClass) (s : State) : Acceptance :=
  if !s.portOpen then .notTaken
  else match s.rlState, c with
    | .dispatching, .runner => .assertFails
    | .stopped, .callbackReturn => .assertFails
    | _, _ => .accepted

/-- A command's meaning: its acceptance first (R95 step 5), then its lines. -/
def command (c : CmdClass) (m : Op Unit) (s : State) : Host.Outcome State Fault Refusal :=
  .next (match s.acceptance c with
    | .accepted => runOp m s
    | .assertFails => s.hardFault .assertion
    | .notTaken => s)

/-- An operation that no command word selects (R88, R97, R100): SEQ runs its lines, unless it can take no step
(R271, R192). -/
def internalOp {α : Type} (m : Op α) (s : State) : Host.Outcome State Fault Refusal :=
  .next (if s.fault || s.hung then s else runOp m s)

end Sys2Proof.Machine
end

