-- ==== Sys2Proof/Machine/Clock.lean ====
section
/-!
DEFINITION. The two clock reads (40_clock.md R116, R117).
-/

namespace Sys2Proof.Machine

/-- GETTICK (R116). -/
def gettickOp : Op Unit := do
  let now ← readTick
  tau
  emit (.resp (now.setWidth 64))

/-- GETXTIME (R117). -/
def getxtimeOp : Op Unit := do
  let xnow ← rd State.xtime
  tau
  emit (.resp xnow)

/-- The meaning of GETTICK. -/
def execGettick (s : State) : Host.Outcome State Fault Refusal := command .plain gettickOp s

/-- The meaning of GETXTIME. -/
def execGetxtime (s : State) : Host.Outcome State Fault Refusal := command .plain getxtimeOp s

end Sys2Proof.Machine
end

