-- ==== Sys2Proof/Machine/Bus.lean ====
section
/-!
DEFINITION. The six frame shapes (43_bus.md R195 to R200) and the chip commands, each through the shape its row names
(30_encoding.md R100).
-/

namespace Sys2Proof.Machine

/-! ## The six shapes -/

/-- BCMD(op, p) (R195). -/
def bcmdOp (op : Byte) (payload : List Byte) : Op Unit := do
  let _ ← busFrame op payload false 0

/-- BREAD(op, n) (R196). -/
def breadOp (op : Byte) (n : Nat) : Op (List Byte) := busFrame op [] true n

/-- BWREG(addr, v) (R197). That rule has at least one data byte; a caller whose encoder has length 0 sends the opcode and
the address alone. DESIGN CHOICE, log entry 38. -/
def bwregOp (p : Params) (addr : ChipAddr) (v : List Byte) : Op Unit := do
  let _ ← busFrame (p.opc .wreg) (addrBytes addr ++ v) false 0

/-- BRREG(addr, n) (R198). -/
def brregOp (p : Params) (addr : ChipAddr) (n : Nat) : Op (List Byte) :=
  busFrame (p.opc .rreg) (addrBytes addr) true n

/-- BWBUF(off, v) (R199). -/
def bwbufOp (p : Params) (off : Byte) (v : List Byte) : Op Unit := do
  let _ ← busFrame (p.opc .wbuf) (off :: v) false 0

/-- BRBUF(off, n) (R200). -/
def brbufOp (p : Params) (off : Byte) (n : Nat) : Op (List Byte) := busFrame (p.opc .rbuf) [off] true n

/-! ## The chip commands (R100) -/

/-- CC_SLEEP. -/
def ccSleep (p : Params) : Op Unit := bcmdOp (p.opc .sleep) [p.coldFlag]
/-- CC_STANDBY. -/
def ccStandby (p : Params) : Op Unit := bcmdOp (p.opc .standby) [p.stdbyCfg]
/-- CC_FS. -/
def ccFs (p : Params) : Op Unit := bcmdOp (p.opc .fs) []
/-- CC_TX. -/
def ccTx (p : Params) : Op Unit := bcmdOp (p.opc .tx) (timeoutBytes p p.txTimeout)
/-- CC_TXCW. -/
def ccTxcw (p : Params) : Op Unit := bcmdOp (p.opc .txcw) []
/-- CC_RX. -/
def ccRx (p : Params) (t : Nat) : Op Unit := bcmdOp (p.opc .rx) (timeoutBytes p t)
/-- CC_REGMODE. -/
def ccRegmode (p : Params) : Op Unit := bcmdOp (p.opc .regmode) [p.regmode]
/-- CC_PKTTYPE. -/
def ccPkttype (p : Params) : Op Unit := do
  let r ← rd State.rcfg
  bcmdOp (p.opc .pkttype) [p.kindByte r.kind]
/-- CC_FREQ. -/
def ccFreq (p : Params) : Op Unit := do
  let r ← rd State.rcfg
  bcmdOp (p.opc .freq) (freqBytes p r.freq)
/-- CC_MODPARAMS. -/
def ccModparams (p : Params) : Op Unit := do
  let r ← rd State.rcfg
  bcmdOp (p.opc .modparams) (modBytes p r)
/-- CC_PKTPARAMS. -/
def ccPktparams (p : Params) (dir : Dir) : Op Unit := do
  let r ← rd State.rcfg
  bcmdOp (p.opc .pktparams) (pktBytes p r dir)
/-- CC_CLRIRQ. -/
def ccClrirq (p : Params) : Op Unit := bcmdOp (p.opc .clrirq) (irqBytes IRQ_ALL)
/-- CC_IRQPARAMS. -/
def ccIrqparams (p : Params) (mask : BitVec 16) : Op Unit := bcmdOp (p.opc .irqparams) (irqRouteBytes p mask)
/-- CC_TXPARAMS. -/
def ccTxparams (p : Params) (power : Int) : Op Unit := bcmdOp (p.opc .txparams) (powBytes p power)
/-- CC_GETIRQ. -/
def ccGetirq (p : Params) : Op (List Byte) := breadOp (p.opc .getirq) 2
/-- CC_RXBUFSTATUS. -/
def ccRxbufstatus (p : Params) : Op (List Byte) := breadOp (p.opc .rxbufstatus) 2
/-- CC_PKTSTATUS. -/
def ccPktstatus (p : Params) : Op (List Byte) := breadOp (p.opc .pktstatus) p.nPktStatus
/-- WREG(addr, data). -/
def wreg (p : Params) (addr : ChipAddr) (data : List Byte) : Op Unit := bwregOp p addr data
/-- RREG(addr, n). -/
def rreg (p : Params) (addr : ChipAddr) (n : Nat) : Op (List Byte) := brregOp p addr n
/-- WBUF(off, data). -/
def wbuf (p : Params) (off : Byte) (data : List Byte) : Op Unit := bwbufOp p off data
/-- RBUF(off, n). -/
def rbuf (p : Params) (off : Byte) (n : Nat) : Op (List Byte) := brbufOp p off n

/-! ## Meanings -/

/-- The meaning of BCMD. -/
def execBcmd (op : Byte) (payload : List Byte) (s : State) : Host.Outcome State Fault Refusal :=
  internalOp (bcmdOp op payload) s
/-- The meaning of BREAD. -/
def execBread (op : Byte) (n : Nat) (s : State) : Host.Outcome State Fault Refusal := internalOp (breadOp op n) s
/-- The meaning of BWREG. -/
def execBwreg (addr : ChipAddr) (data : List Byte) (s : State) : Host.Outcome State Fault Refusal :=
  internalOp (bwregOp Config.params addr data) s
/-- The meaning of BRREG. -/
def execBrreg (addr : ChipAddr) (n : Nat) (s : State) : Host.Outcome State Fault Refusal :=
  internalOp (brregOp Config.params addr n) s
/-- The meaning of BWBUF. -/
def execBwbuf (off : Byte) (data : List Byte) (s : State) : Host.Outcome State Fault Refusal :=
  internalOp (bwbufOp Config.params off data) s
/-- The meaning of BRBUF. -/
def execBrbuf (off : Byte) (n : Nat) (s : State) : Host.Outcome State Fault Refusal :=
  internalOp (brbufOp Config.params off n) s
/-- The meaning of CC_SLEEP. -/
def execCcSleep (s : State) : Host.Outcome State Fault Refusal := internalOp (ccSleep Config.params) s
/-- The meaning of CC_STANDBY. -/
def execCcStandby (s : State) : Host.Outcome State Fault Refusal := internalOp (ccStandby Config.params) s
/-- The meaning of CC_FS. -/
def execCcFs (s : State) : Host.Outcome State Fault Refusal := internalOp (ccFs Config.params) s
/-- The meaning of CC_TX. -/
def execCcTx (s : State) : Host.Outcome State Fault Refusal := internalOp (ccTx Config.params) s
/-- The meaning of CC_TXCW. -/
def execCcTxcw (s : State) : Host.Outcome State Fault Refusal := internalOp (ccTxcw Config.params) s
/-- The meaning of CC_RX. -/
def execCcRx (timeout : Nat) (s : State) : Host.Outcome State Fault Refusal :=
  internalOp (ccRx Config.params timeout) s
/-- The meaning of CC_REGMODE. -/
def execCcRegmode (s : State) : Host.Outcome State Fault Refusal := internalOp (ccRegmode Config.params) s
/-- The meaning of CC_PKTTYPE. -/
def execCcPkttype (s : State) : Host.Outcome State Fault Refusal := internalOp (ccPkttype Config.params) s
/-- The meaning of CC_FREQ. -/
def execCcFreq (s : State) : Host.Outcome State Fault Refusal := internalOp (ccFreq Config.params) s
/-- The meaning of CC_MODPARAMS. -/
def execCcModparams (s : State) : Host.Outcome State Fault Refusal := internalOp (ccModparams Config.params) s
/-- The meaning of CC_PKTPARAMS. -/
def execCcPktparams (dir : Dir) (s : State) : Host.Outcome State Fault Refusal :=
  internalOp (ccPktparams Config.params dir) s
/-- The meaning of CC_CLRIRQ. -/
def execCcClrirq (s : State) : Host.Outcome State Fault Refusal := internalOp (ccClrirq Config.params) s
/-- The meaning of CC_IRQPARAMS. -/
def execCcIrqparams (mask : BitVec 16) (s : State) : Host.Outcome State Fault Refusal :=
  internalOp (ccIrqparams Config.params mask) s
/-- The meaning of CC_TXPARAMS. -/
def execCcTxparams (power : Int) (s : State) : Host.Outcome State Fault Refusal :=
  internalOp (ccTxparams Config.params power) s
/-- The meaning of CC_GETIRQ. -/
def execCcGetirq (s : State) : Host.Outcome State Fault Refusal := internalOp (ccGetirq Config.params) s
/-- The meaning of CC_RXBUFSTATUS. -/
def execCcRxbufstatus (s : State) : Host.Outcome State Fault Refusal := internalOp (ccRxbufstatus Config.params) s
/-- The meaning of CC_PKTSTATUS. -/
def execCcPktstatus (s : State) : Host.Outcome State Fault Refusal := internalOp (ccPktstatus Config.params) s
/-- The meaning of WREG. -/
def execWreg (addr : ChipAddr) (data : List Byte) (s : State) : Host.Outcome State Fault Refusal :=
  internalOp (wreg Config.params addr data) s
/-- The meaning of RREG. -/
def execRreg (addr : ChipAddr) (n : Nat) (s : State) : Host.Outcome State Fault Refusal :=
  internalOp (rreg Config.params addr n) s
/-- The meaning of WBUF. -/
def execWbuf (off : Byte) (data : List Byte) (s : State) : Host.Outcome State Fault Refusal :=
  internalOp (wbuf Config.params off data) s
/-- The meaning of RBUF. -/
def execRbuf (off : Byte) (n : Nat) (s : State) : Host.Outcome State Fault Refusal :=
  internalOp (rbuf Config.params off n) s

end Sys2Proof.Machine
end

