-- ==== Sys2Proof/Machine/Radio.lean ====
section
/-!
DEFINITION. The transceiver driver: RINIT, RTX, RRX, RSLEEP, RRAND, the interrupt entry RIRQ and the processing callback
RPROC (44_radio.md R215 to R252).
-/

namespace Sys2Proof.Machine

/-! ## Latches and ghost registers -/

/-- emit Pin(ANT, v) ; ANT <- v. -/
def setAnt (v : AntPath) : Op Unit := upd fun s => { s.emit (.pinAnt v) with ant := v }

/-- emit Pin(TCXO, v) ; TCXO <- v. -/
def setTcxo (v : Bool) : Op Unit := upd fun s => { s.emit (.pinTcxo v) with tcxo := v }

/-- emit Pin(RST, v) ; RST <- v. -/
def setRst (v : RstLevel) : Op Unit := upd fun s => { s.emit (.pinRst v) with rst := v }

/-- CHIPMODE <- m (R39). -/
def setChipMode (m : ChipMode) : Op Unit := upd fun s => { s with chipMode := m }

/-- ROP <- o ; CHIPMODE <- m, the two registers a command leaves (R215). -/
def setRadio (o : Rop) (m : ChipMode) : Op Unit := upd fun s => { s with rop := o, chipMode := m }

/-! ## Configure-and-arm (R218) -/

/-- Line c3' of configure: the frames of AUX_FRAMES in order. -/
def auxFrames : List (Byte × List Byte) → Op Unit
  | [] => pure ()
  | (op, payload) :: rest => do
    bcmdOp op payload
    tau
    auxFrames rest

/-- Line c3 of configure: the TCXO pin where one is wired. -/
def tcxoOn (p : Params) : Op Unit :=
  if p.tcxoPin then setTcxo true else pure ()

/-- Line c9 of configure: whitening seed, CRC seed and CRC polynomial, for FSK only (R219 c). -/
def fskRegisters (p : Params) : Op Unit := do
  let r ← rd State.rcfg
  if r.kind = .fsk then do
    wreg p p.whiteAddr (bytes16 r.whiteSeed)
    tau
    wreg p p.crcSeedAddr (bytes16 r.crcSeed)
    tau
    wreg p p.crcPolyAddr (bytes16 r.crcPoly)
  else pure ()

/-- Line c8 of configure: the sync word. -/
def syncRegister (p : Params) : Op Unit := do
  let r ← rd State.rcfg
  wreg p (p.syncAddr r.kind) (syncBytes p r)

/-- configure(dir), lines c1 to c11 (R218). -/
def configure (p : Params) (dir : Dir) : Op Unit := do
  ccStandby p
  setChipMode .standby
  tau
  ccRegmode p
  tau
  tcxoOn p
  tau
  auxFrames p.auxFrames
  tau
  ccPkttype p
  tau
  ccFreq p
  tau
  ccModparams p
  tau
  ccPktparams p dir
  tau
  syncRegister p
  tau
  fskRegisters p
  tau
  ccClrirq p
  tau
  ccIrqparams p (irqMaskOf p dir)

/-! ## RINIT (R220) -/

/-- Lines 2 to 6 of RINIT: the reset pulse and the self-check (R221). -/
def resetAndCheck (p : Params) : Op Unit := do
  setRst .low
  tau
  setRst .float
  tau
  let v ← rreg p p.chkAddr p.chkLen
  tau
  if v = p.chkValue then setChipMode .standby else raise .resetReadback

/-- Line 8 of RINIT: no reset line is wired (R222). -/
def initUnchecked : Op Unit := upd fun s => { s with rsleep := false, chipMode := .unknown }

/-- RINIT(), lines 1 to 10 (R220). -/
def rinitOp (p : Params) : Op Unit := do
  (if p.hasReset then resetAndCheck p else initUnchecked)
  tau
  upd fun s => { s with rop := .idle }
  tau
  emit (.resp 0#64)

/-! ## RTX (R224) -/

/-- Line 2 of RTX: FRAME[0 .. DATALEN-1] into CHIP's buffer (R225). -/
def loadPayload (p : Params) : Op Unit := do
  let v ← rd fun s => Memory.readFrom s.frame 0 s.rcfg.datalen.toNat
  wbuf p p.txbufBase v

/-- Line 3 of RTX: the clamped power (R226). -/
def sendPower (p : Params) : Op Unit := do
  let r ← rd State.rcfg
  ccTxparams p (clampPower p r.txpow)

/-- Line 5 of RTX. -/
def armTx (p : Params) : Op Unit := do
  ccTx p
  setRadio .tx .tx

/-- Line 6 of RTX (R228). -/
def armTxcw (p : Params) : Op Unit := do
  ccTxcw p
  setRadio .txcw .tx

/-- RTX(mode), lines 1 to 7 (R224); mode = 1 is continuous wave. -/
def rtxOp (p : Params) (mode : Bool) : Op Unit := do
  configure p .tx
  tau
  (if mode then pure () else loadPayload p)
  tau
  sendPower p
  tau
  setAnt .tx
  tau
  (if mode then armTxcw p else armTx p)
  tau
  emit (.resp 0#64)

/-! ## RRX (R230) -/

/-- Line 2 of RRX: the symbol timeout, for a single-shot LORA receive only (R233). -/
def symbolTimeout (p : Params) (mode : Bool) : Op Unit := do
  let r ← rd State.rcfg
  if mode = false ∧ r.kind = .lora then wreg p p.symtoAddr (symtoBytes p r.rxsyms) else pure ()

/-- Lines 5 and 6 of RRX: continuous receive (R231). -/
def armContinuous (p : Params) : Op Unit := do
  setAnt .rx
  tau
  ccRx p p.rxNoTimeout
  setRadio .rxc .rx

/-- Line 9 of RRX: a start time already past is a warning (R234). -/
def timingCheck : Op Unit := do
  let now ← readTick
  let r ← rd State.rcfg
  if sdiff r.rxtime now < 0 then emit (.warn WARN_TIMING) else pure ()

/-- The argument of TimeoutBytes at lines 12 and 13 of RRX (R233). -/
def rxWindow (p : Params) (r : Rcfg) : Nat :=
  match r.kind with
  | .lora => p.rxSingle
  | .fsk => p.fskRxto r.rxsyms

/-- Lines 8 to 15 of RRX: single-shot receive (R232). -/
def armSingle (p : Params) : Op Unit := do
  irqDisable
  tau
  timingCheck
  tau
  let r ← rd State.rcfg
  waitDue r.rxtime
  setAnt .rx
  tau
  ccRx p (rxWindow p r)
  tau
  setRadio .rxs .rx
  tau
  irqEnable

/-- RRX(mode), lines 1 to 16 (R230); mode = 1 is continuous. -/
def rrxOp (p : Params) (mode : Bool) : Op Unit := do
  configure p .rx
  tau
  symbolTimeout p mode
  tau
  ccFs p
  setChipMode .fs
  tau
  (if mode then armContinuous p else armSingle p)
  tau
  emit (.resp 0#64)

/-! ## RSLEEP (R240) -/

/-- Line 5 of RSLEEP: the TCXO pin where one is wired. -/
def tcxoOff (p : Params) : Op Unit :=
  if p.tcxoPin then setTcxo false else pure ()

/-- Lines 2 to 5 of RSLEEP. -/
def enterSleep (p : Params) : Op Unit := do
  ccSleep p
  tau
  upd fun s => { s with rsleep := true, rop := .idle, chipMode := .sleep }
  tau
  setAnt .off
  tau
  tcxoOff p
  tau

/-- RSLEEP(), lines 1 to 6 (R240): elided while the flag is set. -/
def rsleepOp (p : Params) : Op Unit := do
  let asleep ← rd State.rsleep
  (if asleep then pure () else enterSleep p)
  emit (.resp 0#64)

/-! ## RRAND (R242) -/

/-- Line 5 of RRAND: the dwell. -/
def dwell (p : Params) : Op Unit := do
  let t0 ← readTick
  waitDue (tickAdd t0 p.randDwell)

/-- RRAND(), lines 1 to 10 (R242). -/
def rrandOp (p : Params) : Op Unit := do
  ccStandby p
  setRadio .idle .standby
  tau
  ccClrirq p
  tau
  ccIrqparams p 0#16
  tau
  setAnt .rx
  tau
  ccRx p p.rxNoTimeout
  setChipMode .rx
  tau
  dwell p
  let r ← rreg p p.randAddr p.randN
  tau
  ccStandby p
  setChipMode .standby
  tau
  setAnt .off
  tau
  upd fun s => { s with rcfg := { s.rcfg with rand := ofBytesBE r } }
  tau
  emit (.resp 0#64)

/-! ## RPROC (R247 to R252) -/

/-- tx_done() (R248). -/
def txDone (p : Params) : Op Unit := upd fun s =>
  { s with rcfg := { s.rcfg with txend := s.irqTs - p.txdoneFixup s.rcfg.kind, timedout := false } }

/-- Line 2 of rx_done(): RSSI, and SNR when KIND = LORA (R249). -/
def signalQuality (p : Params) (status : List Byte) : Op Unit := upd fun s =>
  { s with rcfg := { s.rcfg with
      rssi := p.rssiOf s.rcfg.kind status
      snr := match s.rcfg.kind with | .lora => p.snrOf status | .fsk => s.rcfg.snr } }

/-- Line 4 of rx_done(): the payload and its length (R249). -/
def storePayload (len : Byte) (d : List Byte) : Op Unit := upd fun s =>
  { s with frame := Memory.writeFrom s.frame 0 d, rcfg := { s.rcfg with datalen := len } }

/-- Line 5 of rx_done(): the end of the frame (R249). -/
def frameEnd (p : Params) : Op Unit := upd fun s =>
  { s with rcfg := { s.rcfg with rxend := s.irqTs - rxdoneFixup p s.rcfg.kind s.rcfg.bw s.rcfg.sf } }

/-- Line 6 of rx_done(): the start of the frame (R249). -/
def frameStart (p : Params) (len : Byte) : Op Unit := upd fun s =>
  { s with rcfg := { s.rcfg with rxstart := s.rcfg.rxend - p.airtime s.rcfg.airKey len } }

/-- rx_done(), lines 1 to 7 (R249). -/
def rxDone (p : Params) : Op Unit := do
  let status ← ccPktstatus p
  tau
  signalQuality p status
  tau
  let bufStatus ← ccRxbufstatus p
  let len := bufStatus.getD 0 0#8
  let start := bufStatus.getD 1 0#8
  tau
  let d ← rbuf p start len.toNat
  storePayload len d
  tau
  frameEnd p
  tau
  frameStart p len
  tau
  upd fun s => { s with rcfg := { s.rcfg with timedout := false } }

/-- timed_out() (R251). -/
def timedOut : Op Unit := upd fun s =>
  { s with rcfg := { s.rcfg with datalen := 0#8, timedout := true } }

/-- The kind `Complete` reports (R250 line 1). -/
def completionKind (o : Rop) : Dir := if o = .tx then .tx else .rx

/-- complete(), lines 1 to 5 (R250). -/
def complete : Op Unit := do
  let o ← rd State.rop
  tau
  setChipMode .standby
  tau
  setAnt .off
  tau
  upd fun s => { s with rop := .idle }
  tau
  upd fun s => { s.emit (.complete (completionKind o)) with rlState := .dispatching }

/-- The completion source RPROC expects under an operation (R247 line 3). -/
def doneMask (p : Params) (o : Rop) : BitVec 16 := if o = .tx then p.irqTxdone else p.irqRxdone

/-- Lines 5 to 9 of RPROC on the interrupt status st (R247). -/
def processStatus (p : Params) (o : Rop) (st : BitVec 16) : Op Unit := do
  let dn := st &&& doneMask p o != 0#16
  let tmo := st &&& p.irqTimeout != 0#16
  if dn = tmo then raise .irqInconsistent
  else do
    (if dn then (if o = .tx then txDone p else rxDone p) else timedOut)
    tau
    complete

/-- RPROC(), lines 1 to 9 (R247). -/
def rprocOp (p : Params) : Op Unit := do
  let o ← rd State.rop
  if o = .idle ∨ o = .txcw then raise .unreachable
  else do
    tau
    let b ← ccGetirq p
    tau
    processStatus p o (word16 (b.getD 0 0#8) (b.getD 1 0#8))

/-! ## Meanings -/

/-- The meaning of RINIT. -/
def execRinit (s : State) : Host.Outcome State Fault Refusal := command .plain (rinitOp Config.params) s

/-- The meaning of RTX. -/
def execRtx (mode : Bool) (s : State) : Host.Outcome State Fault Refusal :=
  command .plain (rtxOp Config.params mode) s

/-- The meaning of RRX. -/
def execRrx (mode : Bool) (s : State) : Host.Outcome State Fault Refusal :=
  command .plain (rrxOp Config.params mode) s

/-- The meaning of RSLEEP. -/
def execRsleep (s : State) : Host.Outcome State Fault Refusal := command .plain (rsleepOp Config.params) s

/-- The meaning of RRAND. -/
def execRrand (s : State) : Host.Outcome State Fault Refusal := command .plain (rrandOp Config.params) s

/-- The meaning of RIRQ: the entry runs where its selection holds (R245, R283). -/
def execRirq (s : State) : Host.Outcome State Fault Refusal := .next s.serveIrq

/-- The meaning of RPROC. -/
def execRproc (s : State) : Host.Outcome State Fault Refusal := internalOp (rprocOp Config.params) s

end Sys2Proof.Machine
end

