-- ==== Sys2Proof/Machine/Scheduler.lean ====
section
/-!
DEFINITION. The job scheduler: SCHED, CANCEL, SCHEDX and XSTEP (41_scheduler.md R135 to R156).
-/

namespace Sys2Proof.Machine

/-- SCHED(j, dl, cb, fl), lines 1 to 11 (R136). -/
def schedOp (j : JobId) (dl : Tick) (cb : CbId) (fl : FlagSet) : Op Unit := do
  irqDisable
  tau
  let now ← readTick
  tau
  scheduleOp now j dl cb fl
  tau
  irqEnable
  tau
  emit (.resp 0#64)

/-- CANCEL(j), lines 1 to 4 (R145). -/
def cancelOp (j : JobId) : Op Unit := do
  irqDisable
  tau
  let r ← rd fun s => s.queued j
  upd (State.unlink j)
  tau
  irqEnable
  tau
  emit (.resp (if r then 1#64 else 0#64))

/-- What XSTEP schedules, from the wide deadline and the final callback of its job: deadline, callback and flags
(R152 lines 3 to 9, R153). -/
def xstepChoice (xnow xdl : XTime) (xcb : CbId) : Tick × CbId × FlagSet :=
  if xdiff xdl xnow > SAFE_SPAN then (tickAdd (xt2tick xnow) SAFE_SPAN, CB_XSTEP, FL_APPROX)
  else if xdiff xdl xnow > 0 then (xt2tick xdl, xcb, FL_APPROX)
  else (xt2tick xnow, xcb, FL_APPROX ||| FL_IMMED)

/-- XSTEP(j), lines 1 to 10 (R152). -/
def xstepOp (j : JobId) : Op Unit := do
  irqDisable
  tau
  let xnow ← rd State.xtime
  tau
  let r ← rd fun s => s.job j
  let c := xstepChoice xnow r.xdl r.xcb
  tau
  schedPrime (xt2tick xnow) j c.1 c.2.1 c.2.2
  tau
  irqEnable

/-- SCHEDX(j, xdl, cb), lines 1 to 6 (R150). -/
def schedxOp (j : JobId) (xdl : XTime) (cb : CbId) : Op Unit := do
  irqDisable
  tau
  upd (State.unlink j)
  tau
  upd (State.writeExt j xdl cb)
  tau
  xstepOp j
  tau
  irqEnable
  tau
  emit (.resp 0#64)

/-- The meaning of SCHED. -/
def execSched (j : JobId) (dl : Tick) (cb : CbId) (fl : FlagSet) (s : State) : Host.Outcome State Fault Refusal :=
  command .plain (schedOp j dl cb fl) s

/-- The meaning of CANCEL. -/
def execCancel (j : JobId) (s : State) : Host.Outcome State Fault Refusal := command .plain (cancelOp j) s

/-- The meaning of SCHEDX. -/
def execSchedx (j : JobId) (xdl : XTime) (cb : CbId) (s : State) : Host.Outcome State Fault Refusal :=
  command .plain (schedxOp j xdl cb) s

/-- The meaning of XSTEP, the internal callback (R88, R152). -/
def execXstep (j : JobId) (s : State) : Host.Outcome State Fault Refusal := internalOp (xstepOp j) s

end Sys2Proof.Machine
end

