-- ==== Sys2Proof/Machine/RunLoop.lean ====
section
/-!
DEFINITION. The run loop and the nesting commands: RUNSTEP, RUNLOOP, CBRET, IRQDIS, IRQEN (42_runloop.md R165 to R184).
RUNSTEP comes to rest inside its sleep call, with RL_STATE = SLEEPING, and goes on when that call returns (log entry 6).
-/

namespace Sys2Proof.Machine

/-- Step 2b of RUNSTEP: the sleep mode (R167). -/
def State.sleepMode (s : State) : SleepMode := if s.exactCnt = 0#CNT_W then .approx else .exact

/-- The sleep call of steps 2d and 3b (R165, R168). -/
def State.sleepCall (s : State) : Event :=
  match s.q with
  | h :: _ => .sleepUntil (s.job h).dl s.sleepMode
  | [] => .sleepForever

/-- RUNSTEP(), step 1 and steps 2 to 2d or 3 to 3b, up to the sleep call (R165). -/
def runstepOp : Op Unit := do
  irqDisable
  tau
  upd fun s => { s with rlState := .sleeping }
  tau
  upd fun s => s.emit s.sleepCall

/-- f3 of finish(): the one response of the step (R89, R165), or the next step of the loop (R177). -/
def finishAnswer : Op Unit := do
  let loops ← rd State.rlLoop
  if loops then runstepOp else emit (.resp 0#64)

/-- f1 of finish(): disarm the watchdog. -/
def disarm : Op Unit := upd fun s => if s.wdArmed then { s.emit .wdDisarm with wdArmed := false } else s

/-- finish(), lines f1 to f3 (R165). -/
def finishOp : Op Unit := do
  disarm
  tau
  upd fun s => { s with curJob := NIL, rlState := .stopped }
  tau
  finishAnswer

/-- late_check(j, t) (R172). It reads the stored IMMED flag, as R172 and D14 say, where R25 and D7 say that nothing does;
the spec does not list this conflict. DESIGN CHOICE, log entry 37. -/
def lateCheck (p : Params) (j : JobId) (t : Tick) : Op Unit := upd fun s =>
  let r := s.job j
  if flApprox r.fl = false ∧ flImmed r.fl = false ∧ sdiff r.dl t < -(p.lateTol : Int) then
    { s.emit (.late j (-(sdiff r.dl t))) with lateCnt := s.lateCnt + 1 }
  else s

/-- Step 5c of RUNSTEP. -/
def armWatchdog (j : JobId) : Op Unit := upd fun s => { s.emit .wdArm with wdArmed := true, curJob := j }

/-- Steps 5e to 5g of RUNSTEP: the callback id says which callback runs (R170). -/
def invoke (p : Params) (j : JobId) (cb : CbId) : Op Unit :=
  if cb = CB_XSTEP then do
    xstepOp j
    tau
    finishOp
  else if cb = CB_RPROC then rprocOp p
  else upd fun s => { s.emit (.dispatch j cb) with rlState := .dispatching }

/-- Steps 5b to 5g of RUNSTEP on the selected job (R165). -/
def dispatchOp (p : Params) (j : JobId) : Op Unit := do
  let t ← readTick
  lateCheck p j t
  tau
  armWatchdog j
  tau
  let r ← rd fun s => s.job j
  tau
  invoke p j r.cb

/-- Step 4 of RUNSTEP when a job is selected: interrupts are restored unless it has IRQOFF (R169). -/
def restoreUnlessOff (j : JobId) : Op Unit := do
  let r ← rd fun s => s.job j
  if flIrqOff r.fl then pure () else irqEnable

/-- Steps 2f, 4 and 5 of RUNSTEP when the sleep call answers REACHED: the head is dequeued and dispatched (R166). -/
def sleepReached (p : Params) (h : JobId) : Op Unit := do
  upd fun s => { s with rlState := .stopped }
  tau
  upd (State.unlink h)
  tau
  restoreUnlessOff h
  tau
  dispatchOp p h

/-- Steps 2g or 3c, 4 and 5 of RUNSTEP when the sleep call ends on an event: no job is selected (R166, R168). -/
def sleepInterrupted : Op Unit := do
  upd fun s => { s with rlState := .stopped }
  tau
  irqEnable
  tau
  finishOp

/-- HAL's sleep call returns (R175). REACHED is admitted only for `SleepUntil` with its deadline due (R175 a); an
answer that HAL may not give, or that comes when no sleep call is in progress, is no return. -/
def State.sleepReturns (p : Params) (a : SleepAnswer) (s : State) : State :=
  if s.fault || s.hung || s.rlState != .sleeping then s
  else match a, s.q with
    | .interrupted, _ => runOp sleepInterrupted s
    | .reached, h :: _ => if due (s.job h).dl s.tick then runOp (sleepReached p h) s else s
    | .reached, [] => s

/-- What the sleep call does when no turn says (R175): a pending interrupt ends it, or may end it; otherwise CLK runs
until the deadline and HAL answers REACHED (liveness, R175 c, d). `SleepForever` with nothing pending goes on. -/
def State.sleepOn (p : Params) (s : State) : State :=
  match s.q with
  | [] => if s.irqPend then s.sleepReturns p .interrupted else s
  | h :: _ =>
    let ends := s.irqPend && Config.sleepTie s.draws
    let t := if s.irqPend then { s with draws := s.draws + 1 } else s
    if ends then t.sleepReturns p .interrupted
    else State.sleepReturns p .reached { t with xtime := dueTime (t.job h).dl t.xtime }

/-- RUNLOOP() (R177). -/
def runloopOp : Op Unit := do
  upd fun s => { s with rlLoop := true }
  tau
  runstepOp

/-- IRQDIS (R182). -/
def irqdisOp : Op Unit := do
  irqDisable
  tau
  emit (.resp 0#64)

/-- IRQEN (R183). -/
def irqenOp : Op Unit := do
  irqEnable
  tau
  emit (.resp 0#64)

/-- The meaning of RUNSTEP. -/
def execRunstep (s : State) : Host.Outcome State Fault Refusal := command .runner runstepOp s

/-- The meaning of RUNLOOP. -/
def execRunloop (s : State) : Host.Outcome State Fault Refusal := command .runner runloopOp s

/-- The meaning of CBRET (R171). -/
def execCbret (s : State) : Host.Outcome State Fault Refusal := command .callbackReturn finishOp s

/-- The meaning of IRQDIS. -/
def execIrqdis (s : State) : Host.Outcome State Fault Refusal := command .plain irqdisOp s

/-- The meaning of IRQEN. -/
def execIrqen (s : State) : Host.Outcome State Fault Refusal := command .plain irqenOp s

end Sys2Proof.Machine
end

