-- ==== Sys2Proof/Machine/Dispatch.lean ====
section
/-!
DEFINITION. Dispatch: one arm for each operation of Sys2Proof/Syntax.lean, each a call of the operation's meaning.
-/

namespace Sys2Proof.Machine

/-- The meaning of one operation in one state. -/
def exec (i : Instr) (s : State) : Host.Outcome State Fault Refusal :=
  match i with
  | .gettick => Sys2Proof.Machine.execGettick s
  | .getxtime => Sys2Proof.Machine.execGetxtime s
  | .sched j dl cb fl => Sys2Proof.Machine.execSched j dl cb fl s
  | .cancel j => Sys2Proof.Machine.execCancel j s
  | .schedx j xdl cb => Sys2Proof.Machine.execSchedx j xdl cb s
  | .runstep => Sys2Proof.Machine.execRunstep s
  | .runloop => Sys2Proof.Machine.execRunloop s
  | .cbret => Sys2Proof.Machine.execCbret s
  | .irqdis => Sys2Proof.Machine.execIrqdis s
  | .irqen => Sys2Proof.Machine.execIrqen s
  | .rinit => Sys2Proof.Machine.execRinit s
  | .rtx mode => Sys2Proof.Machine.execRtx mode s
  | .rrx mode => Sys2Proof.Machine.execRrx mode s
  | .rsleep => Sys2Proof.Machine.execRsleep s
  | .rrand => Sys2Proof.Machine.execRrand s
  | .rirq => Sys2Proof.Machine.execRirq s
  | .xstep j => Sys2Proof.Machine.execXstep j s
  | .rproc => Sys2Proof.Machine.execRproc s
  | .bcmd op payload => Sys2Proof.Machine.execBcmd op payload s
  | .bread op n => Sys2Proof.Machine.execBread op n s
  | .bwreg addr data => Sys2Proof.Machine.execBwreg addr data s
  | .brreg addr n => Sys2Proof.Machine.execBrreg addr n s
  | .bwbuf off data => Sys2Proof.Machine.execBwbuf off data s
  | .brbuf off n => Sys2Proof.Machine.execBrbuf off n s
  | .ccSleep => Sys2Proof.Machine.execCcSleep s
  | .ccStandby => Sys2Proof.Machine.execCcStandby s
  | .ccFs => Sys2Proof.Machine.execCcFs s
  | .ccTx => Sys2Proof.Machine.execCcTx s
  | .ccTxcw => Sys2Proof.Machine.execCcTxcw s
  | .ccRx timeout => Sys2Proof.Machine.execCcRx timeout s
  | .ccRegmode => Sys2Proof.Machine.execCcRegmode s
  | .ccPkttype => Sys2Proof.Machine.execCcPkttype s
  | .ccFreq => Sys2Proof.Machine.execCcFreq s
  | .ccModparams => Sys2Proof.Machine.execCcModparams s
  | .ccPktparams dir => Sys2Proof.Machine.execCcPktparams dir s
  | .ccClrirq => Sys2Proof.Machine.execCcClrirq s
  | .ccIrqparams mask => Sys2Proof.Machine.execCcIrqparams mask s
  | .ccTxparams power => Sys2Proof.Machine.execCcTxparams power s
  | .ccGetirq => Sys2Proof.Machine.execCcGetirq s
  | .ccRxbufstatus => Sys2Proof.Machine.execCcRxbufstatus s
  | .ccPktstatus => Sys2Proof.Machine.execCcPktstatus s
  | .wreg addr data => Sys2Proof.Machine.execWreg addr data s
  | .rreg addr n => Sys2Proof.Machine.execRreg addr n s
  | .wbuf off data => Sys2Proof.Machine.execWbuf off data s
  | .rbuf off n => Sys2Proof.Machine.execRbuf off n s

end Sys2Proof.Machine
end

