-- ==== Sys2Proof/Machine/Port.lean ====
section
/-!
DEFINITION. The inward ports of HOST (10_state.md R40, R55) and the turns of the other agents (00_scope.md R9): what is read
from the command port, a write of the shared record, and what one turn does.
-/

namespace Sys2Proof.Machine

/-- What SEQ does at its turn. -/
inductive PortRead where
  /-- It takes no step: it has faulted, it hangs, or HOST issues nothing (R268, R313, R335). -/
  | nothing
  /-- It is inside a sleep call (R175). -/
  | asleep
  /-- HOST writes the shared record. -/
  | hostWrite (w : HostWrite) (s : State)
  /-- A command word is taken from the port. -/
  | word (w : CmdWord) (s : State)
deriving DecidableEq, Repr

/-- SEQ's turn (R268): the port is read only where it is open; HOST runs, and so writes, only there too (R40). -/
def readPort (s : State) : PortRead :=
  if s.fault || s.hung then .nothing
  else if s.rlState = .sleeping then .asleep
  else if !s.portOpen then .nothing
  else match s.host with
    | [] => .nothing
    | .write w :: rest => .hostWrite w { s with host := rest }
    | .cmd w :: rest => .word w { s with host := rest }

/-- What WDG owes when no turn is scripted and SEQ can take no step: while WD_ARMED = 1 the callback, or the frame it hangs
in, never ends, and WDG then expires (R176, R276 b). That an empty port and an empty script mean "never" is log entry 39;
DESIGN CHOICE. -/
def State.overdue (s : State) : State :=
  match readPort s with
  | .nothing => if s.wdArmed then s.hardFault .watchdog else s
  | .asleep | .hostWrite _ _ | .word _ _ => s

/-- HOST writes an input field of RCFG (R41). -/
def Rcfg.write (w : HostWrite) (r : Rcfg) : Rcfg :=
  match w with
  | .freq v => { r with freq := v }
  | .kind v => { r with kind := v }
  | .sf v => { r with sf := v }
  | .bw v => { r with bw := v }
  | .cr v => { r with cr := v }
  | .lro v => { r with lro := v }
  | .preamble v => { r with preamble := v }
  | .hdrmode v => { r with hdrmode := v }
  | .crcen v => { r with crcen := v }
  | .iqinv v => { r with iqinv := v }
  | .sync v => { r with sync := v }
  | .whiteSeed v => { r with whiteSeed := v }
  | .crcSeed v => { r with crcSeed := v }
  | .crcPoly v => { r with crcPoly := v }
  | .txpow v => { r with txpow := v }
  | .rxsyms v => { r with rxsyms := v }
  | .rxtime v => { r with rxtime := v }
  | .datalen v => { r with datalen := v }
  | .frame _ _ => r

/-- HOST's write in its window (R40); FRAME has the addresses 0 to MAX_LEN-1 (R43). -/
def hostWrite (w : HostWrite) (s : State) : Host.Outcome State Fault Refusal :=
  match w with
  | .frame a v => if a < MAX_LEN then .next { s with frame := Memory.write s.frame a v } else .fault .frameAddress
  | w => .next { s with rcfg := Rcfg.write w s.rcfg }

/-- A turn of an agent other than SEQ. -/
def State.turn (t : Turn) (s : State) : State :=
  match t with
  | .env e => s.envEvent e
  | .sleepReturns a => s.sleepReturns Config.params a
  | .platformReset x => s.platformReset x
  | .seq => s

/-- A command word that is illegal raises HardFault(ILLEGAL_CMD) and changes no other state (R94). -/
def illegalWord (s : State) : Host.Outcome State Fault Refusal := .next (s.hardFault .illegalCmd)

/-- The port with this word in front, and SEQ's turn next. -/
def State.offerWord (w : CmdWord) (s : State) : State :=
  { s with host := .cmd w :: s.host, turns := .seq :: s.turns }

end Sys2Proof.Machine
end

