-- ==== Sys2Proof/Machine/Step.lean ====
section
/-!
DEFINITION. One step of the machine: a turn of another agent, or SEQ's turn, which is one operation run to completion
(00_scope.md R8, R9), the return of a sleep call, or a write of HOST to the shared record.
-/

namespace Sys2Proof.Machine

/-- SEQ's turn: what is at the port is decoded (30_encoding.md R95) and executed. -/
def seqStep (s : State) : Host.Outcome State Fault Refusal :=
  match readPort s with
  | .nothing => .next s
  | .asleep => .next (s.sleepOn Config.params)
  | .hostWrite w t => hostWrite w t
  | .word w t =>
    match decode w with
    | .ok i => exec i t
    | .error _ => illegalWord t

/-- One step: the next scripted turn, or SEQ's; where SEQ can take none either, the watchdog's if it is armed. -/
def step (s : State) : Host.Outcome State Fault Refusal :=
  match s.turns with
  | [] => seqStep s.overdue
  | .seq :: rest => seqStep { s with turns := rest }
  | t :: rest => .next (State.turn t { s with turns := rest })

/-- The state s with a command word at the front of HOST's port and SEQ's turn next, so that the very next step takes
it: HOST issues it (log entry 21). -/
def State.withFetchWord (s : State) (nbits w : Nat) : State :=
  s.offerWord (BitVec.ofNat 128 (w % 2 ^ nbits))

end Sys2Proof.Machine
end

