-- ==== Sys2Proof/Safety.lean ====
section
/-!
DEFINITION. What counts as a safe state and a safe run, in the terms the statements use: the invariants of the spec
(10_state.md R29, R30, R35, R44; 44_radio.md R215; 60_exceptions.md R283; 43_bus.md R194), the premises a statement may
name (10_state.md R40, 70_reset_and_hazards.md R322, R341), and the bus trace as a list of frames (10_state.md R57,
43_bus.md R203).
-/

namespace Sys2Proof.Machine

/-! ## The environment -/

/-- No other agent acts while the next operation runs: no interaction point is scripted. -/
abbrev State.quiet (s : State) : Prop := s.moments = []

/-- CHIP's busy line eventually reads 0 in every frame that is scripted (the premise of R192, R341). -/
abbrev State.busyClears (s : State) : Prop := ∀ b ∈ s.busyIn, b ≠ none

/-- SEQ can take a step (R271, R192). -/
abbrev State.seqFree (s : State) : Prop := s.fault = false ∧ s.hung = false

/-- No interrupt is left waiting while it could be taken (R283). -/
abbrev State.irqSettled (s : State) : Prop := s.fault = false → ¬(s.irqPend = true ∧ s.irqNest = 0#8)

/-! ## The queue -/

/-- The entries of Q without the APPROX flag (R30). -/
def State.exactEntries (s : State) : List JobId := s.q.filter fun j => !flApprox (s.job j).fl

/-- Adjacent entries are ordered by signed difference (R29). -/
def adjacentOrdered (dlOf : JobId → Tick) : List JobId → Prop
  | a :: b :: rest => sdiff (dlOf a) (dlOf b) ≤ 0 ∧ adjacentOrdered dlOf (b :: rest)
  | _ => True

/-- The deadline the store holds for a job. -/
def State.dlOf (s : State) (j : JobId) : Tick := (s.job j).dl

/-- Q is ordered (R29). -/
def State.queueOrdered (s : State) : Prop := adjacentOrdered s.dlOf s.q

/-- A set of tick values lies in one window of 2^31 consecutive values (R123, R322). -/
def InWindow (S : Tick → Prop) : Prop :=
  ∃ base : Tick, ∀ d, S d → ∃ o : Nat, o ≤ SAFE_SPAN ∧ d = tickAdd base o

/-! ## Invariants -/

/-- R29 (no job id occurs twice) and R30 (EXACT_CNT counts the exact entries). A fault may leave an operation half done,
and R272 has nothing said of that state but FAULT. -/
def SchedulerInv (s : State) : Prop :=
  s.fault = false → s.q.Nodup ∧ s.exactCnt = BitVec.ofNat CNT_W s.exactEntries.length

/-- The stores keep their canonical form, and FRAME has no byte beyond MAX_LEN (R43). -/
def StoreInv (s : State) : Prop :=
  Memory.wf s.frame ∧ storeCanonical JobRec.reset s.jobs

/-- RSLEEP = 1 implies ROP = IDLE and CHIPMODE = SLEEP (R215). -/
def RadioInv (s : State) : Prop :=
  s.rsleep = true → s.rop = .idle ∧ s.chipMode = .sleep

/-- FAULT and FAULT_CODE agree (R44, R266); chip-select is asserted only inside a frame, so at rest only where SEQ
hangs in one or WDG struck in one (R194, R273). -/
def FaultInv (s : State) : Prop :=
  (s.fault = false → s.faultCode = 0#8) ∧ (s.fault = true → ∃ c : FaultCode, s.faultCode = c.code)
    ∧ (s.cs = .asserted → s.fault = true ∨ s.hung = true)

/-- What holds between operations while FAULT = 0: no interrupt waits that could be taken (R283); a sleep is entered
suppressed (R175 g); the watchdog is armed exactly from `Dispatch` or `Complete` to CBRET (R33, R276), except where SEQ
hangs; between two steps of RUNLOOP there is no rest (R177, R268). -/
def ControlInv (s : State) : Prop :=
  s.fault = false →
    ¬(s.irqPend = true ∧ s.irqNest = 0#8)
      ∧ (s.rlState = .sleeping → s.irqNest ≠ 0#8)
      ∧ (s.hung = false → (s.wdArmed = true ↔ s.rlState = .dispatching))
      ∧ (s.hung = false → s.rlState = .stopped → s.rlLoop = false)

/-! ## The bus trace (R57, R203) -/

/-- The bytes sent until chip-select is de-asserted. -/
def frameBytes : List Event → List Byte
  | .xfer o :: rest => o :: frameBytes rest
  | .cs .deasserted :: _ => []
  | _ :: rest => frameBytes rest
  | [] => []

/-- The frames of a trace, each as the bytes sent in it, opcode first. -/
def busFrames : List Event → List (List Byte)
  | .cs .asserted :: rest => frameBytes rest :: busFrames rest
  | _ :: rest => busFrames rest
  | [] => []

/-- Whether an event belongs to the bus trace: CS, BusyPoll and Xfer (R57). -/
def Event.isBus : Event → Bool
  | .cs _ | .xfer _ | .busyPoll => true
  | _ => false

/-- The events of a trace that are not the bus's. -/
def otherEvents (tr : List Event) : List Event := tr.filter fun e => !e.isBus

/-- The events of one frame (R190): n busy polls before the line reads 0, and the bytes sent. -/
def frameEvents (n : Nat) (outs : List Byte) : List Event :=
  [.cs .asserted] ++ List.replicate (n + 1) .busyPoll ++ outs.map .xfer ++ [.cs .deasserted]

/-- What an operation shows, frame by frame: a whole frame by the bytes sent in it, or one other event. -/
inductive Shown where
  | frame (bytes : List Byte)
  | out (e : Event)
deriving DecidableEq, Repr

/-- The trace is these frames and events in this order and nothing else; only the polls of each frame are free (R192). -/
def tracesOf : List Shown → List Event → Prop
  | [], ev => ev = []
  | .out e :: rest, ev => ∃ ev', ev = e :: ev' ∧ tracesOf rest ev'
  | .frame bytes :: rest, ev => ∃ (n : Nat) (ev' : List Event), ev = frameEvents n bytes ++ ev' ∧ tracesOf rest ev'

/-- From s to t the trace grows by these frames and events, in this order and whole. -/
def Shows (s t : State) (items : List Shown) : Prop :=
  ∃ ev, t.trace = s.trace ++ ev ∧ tracesOf items ev

/-- Every byte a frame sends: opcode, payload, NOP_BYTE for the status and for each data byte (R190, R193). -/
def frameOut (op : Byte) (out : List Byte) (st : Bool) (nin : Nat) : List Byte :=
  op :: out ++ List.replicate ((if st then 1 else 0) + nin) NOP_BYTE

/-! ## CHIP's answers -/

/-- The busy answer of the next frame (R192). -/
def State.busyNow (s : State) : Option Nat :=
  match s.busyIn with
  | b :: _ => b
  | [] => some (Config.busyPolls s.draws)

/-- The state once that answer is consumed. -/
def State.afterBusy (s : State) : State :=
  match s.busyIn with
  | _ :: rest => { s with busyIn := rest }
  | [] => { s with draws := s.draws + 1 }

/-- CHIP's next n answers (R56 (3)). -/
def State.answers : Nat → State → List Byte
  | 0, _ => []
  | n + 1, s =>
    match s.chipIn with
    | b :: rest => b :: State.answers n { s with chipIn := rest }
    | [] => Config.chipByte s.draws :: State.answers n { s with draws := s.draws + 1 }

/-- The state once n answers are consumed. -/
def State.afterAnswers : Nat → State → State
  | 0, s => s
  | n + 1, s =>
    match s.chipIn with
    | _ :: rest => State.afterAnswers n { s with chipIn := rest }
    | [] => State.afterAnswers n { s with draws := s.draws + 1 }

/-- What a frame answers: the data bytes, the last nin of what CHIP sends back (R190, R201). -/
def frameData (op : Byte) (out : List Byte) (st : Bool) (nin : Nat) (s : State) : List Byte :=
  (s.afterBusy.answers (frameOut op out st nin).length).drop ((frameOut op out st nin).length - nin)

/-- The state a frame leaves when no other agent acts and its busy line reads 0 after n polls (R190, R191). -/
def frameDone (op : Byte) (out : List Byte) (st : Bool) (nin n : Nat) (s : State) : State :=
  { s.afterBusy.afterAnswers (frameOut op out st nin).length with
    rsleep := false
    cs := .deasserted
    trace := s.trace ++ frameEvents n (frameOut op out st nin)
    busData := frameData op out st nin s }

/-! ## Runs -/

/-- A state from which the block goes on: no fatal outcome has happened (R270, R271). -/
abbrev State.safe (s : State) : Prop := s.fault = false

/-- What HOST owes before RTX or RRX: the modulation fields are members of the closed sets (R41, R314 (2)). -/
def rcfgLegal (p : Params) (r : Rcfg) : Prop :=
  r.bw ∈ p.bwSet ∧ (r.kind = .lora → r.sf ∈ p.sfSet ∧ r.cr ∈ p.crSet)

end Sys2Proof.Machine
end

