-- ==== Sys2Proof/Certificates/Slice0/Obligations.lean ====
section
/-!
DEFINITION. The statements for the provers: `Obligations.<Name>`, each with the rule of spec/ it formalises. Where a
statement says "quiet", no other agent acts while the operation runs; the invariants are stated for every script.
-/

namespace Sys2Proof.Machine

/-! ## Words the statements share -/

/-- IrqMask(1) where a disable at this nesting shows one (R180). -/
def maskOn (nest : BitVec NEST_W) : List Event := if nest = 0#8 then [.irqMask true] else []

/-- IrqMask(0) where an enable at this nesting shows one (R181). -/
def maskOff (nest : BitVec NEST_W) : List Event := if nest = 1#8 then [.irqMask false] else []

/-- What a disable and its enable show together. -/
def maskPair (nest : BitVec NEST_W) : List Event := if nest = 0#8 then [.irqMask true, .irqMask false] else []

/-- The record of a job once lines 4 to 6 of SCHED have run (R136, R138). -/
def scheduledRec (now dl : Tick) (cb : CbId) (fl : FlagSet) (r : JobRec) : JobRec :=
  { r with dl := (normalise now dl fl).1, cb := cb, fl := (normalise now dl fl).2 }

/-- Q once line 8 of SCHED has run (R139, R141). -/
def scheduledQueue (now dl : Tick) (fl : FlagSet) (j : JobId) (s : State) : List JobId :=
  insertBefore s.dlOf j (normalise now dl fl).1 (s.q.filter (· != j))

/-- EXACT_CNT once line 9 of SCHED has run (R137, R140). -/
def scheduledCount (fl : FlagSet) (j : JobId) (s : State) : BitVec CNT_W :=
  let c := if s.queued j && !flApprox (s.job j).fl then s.exactCnt - 1 else s.exactCnt
  if flApprox fl then c else c + 1

/-- t is s after SCHED at the clock sample now, but for the trace (R136); XDL and XCB of j are kept. -/
def ScheduledFrom (s t : State) (now : Tick) (j : JobId) (dl : Tick) (cb : CbId) (fl : FlagSet) : Prop :=
  t.q = scheduledQueue now dl fl j s
    ∧ t.exactCnt = scheduledCount fl j s
    ∧ t.job j = scheduledRec now dl cb fl (s.job j)
    ∧ (∀ k, k ≠ j → t.job k = s.job k)

/-- The deadline an operation stores with the entry it queues, by its operands or by the job's wide deadline (R138, R153). -/
def newDeadline (i : Instr) (s : State) : Option Tick :=
  match i with
  | .sched _ dl _ fl => some (normalise s.tick dl fl).1
  | .schedx _ xdl cb => let c := xstepChoice s.xtime xdl cb; some (normalise s.tick c.1 c.2.2).1
  | .xstep j => let c := xstepChoice s.xtime (s.job j).xdl (s.job j).xcb; some (normalise s.tick c.1 c.2.2).1
  | _ => none

/-- The lateness diagnostic on job j at tick t: whether it counts as late (R172; that the stored IMMED exempts it is the
model's choice between R25 and R172, log entry 37). -/
def isLate (p : Params) (r : JobRec) (t : Tick) : Bool :=
  !flApprox r.fl && !flImmed r.fl && decide (sdiff r.dl t < -(p.lateTol : Int))

/-- What configure(dir) shows, line by line (R218); an encoder of length 0 leaves opcode and address (log entry 38). -/
def configureShown (p : Params) (r : Rcfg) (dir : Dir) : List Shown :=
  [.frame [p.opc .standby, p.stdbyCfg], .frame [p.opc .regmode, p.regmode]]
    ++ (if p.tcxoPin then [.out (.pinTcxo true)] else [])
    ++ p.auxFrames.map (fun f => .frame (f.1 :: f.2))
    ++ [.frame [p.opc .pkttype, p.kindByte r.kind], .frame (p.opc .freq :: freqBytes p r.freq),
        .frame (p.opc .modparams :: modBytes p r), .frame (p.opc .pktparams :: pktBytes p r dir),
        .frame (p.opc .wreg :: (addrBytes (p.syncAddr r.kind) ++ syncBytes p r))]
    ++ (match r.kind with
        | .lora => []
        | .fsk => [.frame (p.opc .wreg :: (addrBytes p.whiteAddr ++ bytes16 r.whiteSeed)),
                   .frame (p.opc .wreg :: (addrBytes p.crcSeedAddr ++ bytes16 r.crcSeed)),
                   .frame (p.opc .wreg :: (addrBytes p.crcPolyAddr ++ bytes16 r.crcPoly))])
    ++ [.frame [p.opc .clrirq, 0xFF#8, 0xFF#8], .frame (p.opc .irqparams :: irqRouteBytes p (irqMaskOf p dir))]

/-- TCXO after configure (R218 line c3). -/
def tcxoAfter (p : Params) (s : State) : Bool := if p.tcxoPin then true else s.tcxo

/-- t is s but for what a frame consumes and leaves: RSLEEP cleared, chip-select released, the trace and the answers
(R190, R191). -/
def FramesOnly (s t : State) : Prop :=
  t = { s with
    rsleep := false, cs := .deasserted, trace := t.trace, busyIn := t.busyIn, chipIn := t.chipIn, draws := t.draws
    busData := t.busData }

/-- The class R268 puts a command in. -/
def classOf : Instr → CmdClass
  | .runstep | .runloop => .runner
  | .cbret => .callbackReturn
  | _ => .plain

/-- The lines of each command (30_encoding.md R87), in the order of the opcode table; no other row is a command. -/
def commandLines : Instr → Option (Op Unit)
  | .gettick => some gettickOp
  | .getxtime => some getxtimeOp
  | .sched j dl cb fl => some (schedOp j dl cb fl)
  | .cancel j => some (cancelOp j)
  | .schedx j xdl cb => some (schedxOp j xdl cb)
  | .runstep => some runstepOp
  | .runloop => some runloopOp
  | .cbret => some finishOp
  | .irqdis => some irqdisOp
  | .irqen => some irqenOp
  | .rinit => some (rinitOp Config.params)
  | .rtx mode => some (rtxOp Config.params mode)
  | .rrx mode => some (rrxOp Config.params mode)
  | .rsleep => some (rsleepOp Config.params)
  | .rrand => some (rrandOp Config.params)
  | _ => none

/-- The states of R268 in which no word is taken, in registers; `hung` is the model's (log entry 12). -/
def NotTaken (s : State) : Prop :=
  s.fault = true ∨ s.hung = true ∨ s.rlState = .sleeping ∨ (s.rlState = .stopped ∧ s.rlLoop = true)

/-- The head h is off the queue and counted down (R165 steps 2e and 2f), the turn used. -/
def dequeued (s : State) (ts : List Turn) (h : JobId) (rest : List JobId) : State :=
  { s with
    turns := ts, rlState := .stopped, q := rest
    exactCnt := if flApprox (s.job h).fl then s.exactCnt else s.exactCnt - 1 }

/-- The sleep call of RUNSTEP at this queue (R165 steps 2d and 3b, R167, R168). -/
def callOf (s : State) : Event :=
  match s.q with
  | h :: _ => .sleepUntil (s.job h).dl (if s.exactCnt = 0#16 then .approx else .exact)
  | [] => .sleepForever

/-- Whether step 4 of RUNSTEP serves a pending interrupt: it brings IRQ_NEST to zero with IRQ_PEND = 1 (R169, R283 b). -/
def Serves (s : State) (h : JobId) : Prop :=
  s.irqPend = true ∧ s.irqNest = 1#8 ∧ flIrqOff (s.job h).fl = false

/-- The state once step 4 has served it: IrqMask(0), then RIRQ (R181, R283 b). -/
def served (s : State) : State := State.rirq { s with irqNest := 0#8, trace := s.trace ++ [.irqMask false] }

/-- The interrupt status CHIP answers to CC_GETIRQ (R103, R247 line 2). -/
def statusWord (p : Params) (s : State) : BitVec 16 :=
  let b := frameData (p.opc .getirq) [] true 2 s
  word16 (b.getD 0 0#8) (b.getD 1 0#8)

/-- What makes a command word illegal (R94): the five conditions of that rule, by format (R86). -/
def IllegalWord (w : CmdWord) : Prop :=
  let op := (CmdWord.op w).toNat
  let fmtN := op ∈ [0x01, 0x02, 0x20, 0x21, 0x22, 0x28, 0x29, 0x30, 0x33, 0x34]
  let fmtM := op ∈ [0x31, 0x32]
  ¬(fmtN ∨ fmtM ∨ op ∈ [0x10, 0x11, 0x12])
    ∨ CmdWord.rsv w ≠ 0#5
    ∨ (fmtN ∧ (CmdWord.fl w ≠ 0#3 ∨ CmdWord.job w ≠ 0#16 ∨ CmdWord.cb w ≠ 0#32 ∨ CmdWord.dl w ≠ 0#64))
    ∨ (fmtM ∧ ((CmdWord.fl w).extractLsb' 1 2 ≠ 0#2 ∨ CmdWord.job w ≠ 0#16 ∨ CmdWord.cb w ≠ 0#32
        ∨ CmdWord.dl w ≠ 0#64))
    ∨ (op = 0x11 ∧ (CmdWord.fl w ≠ 0#3 ∨ CmdWord.cb w ≠ 0#32 ∨ CmdWord.dl w ≠ 0#64))
    ∨ (op = 0x10 ∧ (CmdWord.dl w).extractLsb' 32 32 ≠ 0#32)
    ∨ (op = 0x12 ∧ CmdWord.fl w ≠ 0#3)
    ∨ (op ∈ [0x10, 0x11, 0x12] ∧ ¬(CmdWord.job w).toNat < Config.params.njobs)
    ∨ (op ∈ [0x10, 0x12] ∧ ¬(CmdWord.cb w).toNat < 0xFFFFFFF0)

end Sys2Proof.Machine

open Sys2Proof Sys2Proof.Machine

/-! ## Encoding -/

/-- Decode and encode agree: the word of a well-formed command decodes to that command, every operand at every value
(R85, R86, R87, R95). -/
def Obligations.DecodeOfEncode : Prop :=
  ∀ (i : Instr) (w : CmdWord), i.wellFormed = true → encode i = some w → decode w = .ok i

/-- Each word has one meaning: what the decoder accepts is well formed and is the encoding of what it answers (R94). -/
def Obligations.EncodeOfDecode : Prop :=
  ∀ (w : CmdWord) (i : Instr), decode w = .ok i → i.wellFormed = true ∧ encode i = some w

/-- The opcode byte of a chip command identifies it (R100: pairwise distinct; R203). -/
def Obligations.OpcodeByteIdentifies : Prop :=
  ∀ n : OpcName, identifyOpc (Config.params.opc n) = some n

/-- Words written out from the spec's encoding decode to what they stand for (R106, 95_test_vectors.md V19, V81, P1). -/
def Obligations.SpecWordsDecode : Prop :=
  decode 0x00000000000000000000000000000001#128 = .ok .gettick
    ∧ decode 0x00000000000000000000000000000020#128 = .ok .runstep
    ∧ decode 0x00000000000000000000000000000131#128 = .ok (.rtx true)
    ∧ decode 0x00000000000010640000000A00000110#128 = .ok (.sched 0#16 0x1064#32 0x0A#32 0b001#3)
    ∧ decode 0x00000000000000000000000000000820#128 = .error .reservedBits
    ∧ decode 0x00000000000000000000000000000000#128 = .error .unknownOp

/-- An illegal word is exactly one that R94 lists; taken from the port it raises HardFault(ILLEGAL_CMD) and changes no
other state. -/
def Obligations.IllegalWordRefused : Prop :=
  (∀ w : CmdWord, (∃ e, decode w = .error e) ↔ IllegalWord w)
    ∧ ∀ (s : State) (w : CmdWord) (rest : List HostAct) (e : DecodeError),
        (s.turns = [] ∨ ∃ ts, s.turns = .seq :: ts) → s.portOpen = true → s.host = .cmd w :: rest →
        decode w = .error e →
        ∃ t, step s = .next t ∧ t.fault = true ∧ t.faultCode = 0x06#8
          ∧ (t.trace = s.trace ++ [.fatal 0x06#8] ∨ t.trace = s.trace ++ [.debug 0x06#8, .fatal 0x06#8])
          ∧ t = { s with
              host := rest, turns := s.turns.tail, fault := true, faultCode := 0x06#8, trace := t.trace }

/-! ## The step -/

/-- A step runs the decoded operation: when SEQ's turn comes, the port is open and the word at its front decodes to i,
step is exec of i at the state with the word taken and the turn used (R8, R95). -/
def Obligations.StepRunsDecoded : Prop :=
  ∀ (s : State) (w : CmdWord) (rest : List HostAct) (i : Instr),
    (s.turns = [] ∨ ∃ ts, s.turns = .seq :: ts) → s.portOpen = true → s.host = .cmd w :: rest → decode w = .ok i →
    step s = exec i { s with host := rest, turns := s.turns.tail }

/-- The command port is not read, and a word in it waits, after a fault, inside a sleep call, at rest under RL_LOOP = 1 in
STOPPED, and where SEQ hangs in a frame (R268; hung: log entry 12): whatever the step does, HOST's port is as before. -/
def Obligations.PortNotReadWhileClosed : Prop :=
  ∀ s t : State, NotTaken s → step s = .next t → t.host = s.host

/-- The whole table of acceptance (R268), over FAULT, RL_STATE and RL_LOOP (and `hung`, log entry 12): in STOPPED with
RL_LOOP = 0 every command but CBRET is accepted and CBRET raises HardFault(ASSERT); in DISPATCHING every command but RUNSTEP
and RUNLOOP is, and these raise it; elsewhere nothing is taken and nothing happens. An accepted command runs its own lines,
those `commandLines` names. -/
def Obligations.AcceptanceTable : Prop :=
  (∀ (c : CmdClass) (s : State),
      (s.acceptance c = .accepted ↔ s.fault = false ∧ s.hung = false
        ∧ ((s.rlState = .stopped ∧ s.rlLoop = false ∧ c ≠ .callbackReturn)
          ∨ (s.rlState = .dispatching ∧ c ≠ .runner)))
      ∧ (s.acceptance c = .assertFails ↔ s.fault = false ∧ s.hung = false
        ∧ ((s.rlState = .stopped ∧ s.rlLoop = false ∧ c = .callbackReturn)
          ∨ (s.rlState = .dispatching ∧ c = .runner)))
      ∧ (s.acceptance c = .notTaken ↔ NotTaken s))
    ∧ (∀ i : Instr, i.isCommand = (commandLines i).isSome)
    ∧ (∀ (i : Instr) (m : Op Unit), commandLines i = some m → ∀ s : State,
        (s.acceptance (classOf i) = .accepted → exec i s = .next (runOp m s))
          ∧ (s.acceptance (classOf i) = .assertFails → exec i s = .next (s.hardFault .assertion))
          ∧ (NotTaken s → exec i s = .next s))
    ∧ ∀ s : State, s.fault = false → s.hung = false →
        (s.rlState = .stopped → s.rlLoop = false → exec .cbret s = .next (s.hardFault .assertion))
          ∧ (s.rlState = .dispatching →
            exec .runstep s = .next (s.hardFault .assertion) ∧ exec .runloop s = .next (s.hardFault .assertion))

/-- The fatal entry (R270, R272): FAULT and FAULT_CODE are written and `Fatal` is emitted, `Debug` before it or not, and
nothing else changes; a second fault keeps the first code and emits nothing. -/
def Obligations.HardFaultEntry : Prop :=
  ∀ (s : State) (c : FaultCode),
    (s.fault = false → ∃ dbg : List Event, (dbg = [] ∨ dbg = [.debug c.code]) ∧
        s.hardFault c = { s with fault := true, faultCode := c.code, trace := s.trace ++ dbg ++ [.fatal c.code] })
      ∧ (s.fault = true → s.hardFault c = s)

/-- While FAULT = 1 SEQ executes nothing (R271): no operation changes anything, and in a step only CLK counts, an edge
is latched (R282), or the platform resets. -/
def Obligations.FaultHaltsEverything : Prop :=
  (∀ (i : Instr) (s : State), s.fault = true → exec i s = .next s)
    ∧ ∀ s t : State, s.fault = true → step s = .next t → (∀ x ts, s.turns ≠ .platformReset x :: ts) →
        t = { s with xtime := t.xtime, irqPend := t.irqPend, turns := s.turns.tail }

/-- Reset (R310): whatever the block held, every register R310 lists takes its value at once; XTIME is the platform's, any
value below 2^63 (R312). -/
def Obligations.PlatformResetValues : Prop :=
  ∀ (s : State) (x : BitVec 63) (ts : List Turn), s.turns = .platformReset x :: ts →
    ∃ t, step s = .next t ∧ t.xtime.toNat = x.toNat ∧ t.xtime.toNat < 2 ^ 63
      ∧ t.q = [] ∧ t.exactCnt = 0#16 ∧ t.rlState = .stopped ∧ t.rlLoop = false
      ∧ t.curJob = NIL ∧ t.wdArmed = false ∧ t.lateCnt = 0#32 ∧ t.irqNest = 0#8 ∧ t.irqPend = false
      ∧ t.rsleep = false ∧ t.rop = .idle ∧ t.chipMode = .unknown ∧ t.fault = false ∧ t.faultCode = 0#8
      ∧ t.cs = .deasserted ∧ t.rst = .float ∧ t.ant = .off ∧ t.tcxo = false

/-! ## The comparison engine -/

/-- sdiff(a, b) = D when D < 2^31 and D - 2^32 when D >= 2^31, for D = (a - b) mod 2^32 (R118). -/
def Obligations.SdiffIsSignedDifference : Prop :=
  ∀ a b : Tick,
    let D : Int := ((a.toNat : Int) - (b.toNat : Int)) % 2 ^ 32
    (D < 2 ^ 31 → sdiff a b = D) ∧ (2 ^ 31 ≤ D → sdiff a b = D - 2 ^ 32)
      ∧ -2 ^ 31 ≤ sdiff a b ∧ sdiff a b ≤ 2 ^ 31 - 1

/-- The six laws of sdiff (R120). -/
def Obligations.SdiffLaws : Prop :=
  ∀ a b : Tick,
    sdiff a a = 0
      ∧ (∀ k : Int, 0 ≤ k → k ≤ 2 ^ 31 - 1 → sdiff (a + BitVec.ofInt 32 k) a = k)
      ∧ (∀ k : Int, 1 ≤ k → k ≤ 2 ^ 31 → sdiff (a - BitVec.ofInt 32 k) a = -k)
      ∧ (sdiff a b ≠ -2 ^ 31 → sdiff b a = -sdiff a b)
      ∧ (∀ k : Int, sdiff (a + BitVec.ofInt 32 k) (b + BitVec.ofInt 32 k) = sdiff a b)
      ∧ (sdiff a b = 0 ↔ a = b)

/-- The corner at half the range (R121): two values 2^31 apart are each before the other, and a deadline 2^31 ticks in
the future compares as past. -/
def Obligations.HalfRangeComparesAsPast : Prop :=
  ∀ a b : Tick, a - b = 0x80000000#32 →
    b - a = 0x80000000#32 ∧ sdiff a b = -2 ^ 31 ∧ sdiff b a = -2 ^ 31 ∧ later a b = false ∧ later b a = false
      ∧ due a b = true ∧ due b a = true ∧ due (tickAdd b (2 ^ 31)) b = true

/-- `notlater` is not transitive around the circle, by the example of R123; on values that fit one window sdiff is the
difference of the offsets, and `notlater` their order (R123). -/
def Obligations.NotlaterOrdersOneWindow : Prop :=
  (∀ a : Tick,
      let b := a + 0x60000000#32
      let c := b + 0x60000000#32
      sdiff a b = -0x60000000 ∧ sdiff b c = -0x60000000 ∧ sdiff a c = 2 ^ 30
        ∧ notlater a b = true ∧ notlater b c = true ∧ later a c = true ∧ notlater a c = false)
    ∧ ∀ (base : Tick) (o o' : Nat), o ≤ 2 ^ 31 - 1 → o' ≤ 2 ^ 31 - 1 →
        sdiff (tickAdd base o) (tickAdd base o') = (o : Int) - (o' : Int)
          ∧ (notlater (tickAdd base o) (tickAdd base o') = true ↔ o ≤ o')

/-- Translation from extended time (R127): it takes the low 32 bits; near the present the tick difference is the wide
difference, and translation keeps order there; elsewhere the tick difference is off by a multiple of 2^32 that is not
zero; XSTEP translates a wide deadline only inside the range, and elsewhere schedules from the present alone. -/
def Obligations.TranslationNearPresent : Prop :=
  (∀ x : XTime, xt2tick x = x.extractLsb' 0 32)
    ∧ (∀ x xnow : XTime, -2 ^ 31 ≤ xdiff x xnow → xdiff x xnow ≤ 2 ^ 31 - 1 →
      sdiff (xt2tick x) (xt2tick xnow) = xdiff x xnow)
    ∧ (∀ x xnow : XTime, ¬(-2 ^ 31 ≤ xdiff x xnow ∧ xdiff x xnow ≤ 2 ^ 31 - 1) →
      sdiff (xt2tick x) (xt2tick xnow) ≠ xdiff x xnow
        ∧ (2 ^ 32 : Int) ∣ xdiff x xnow - sdiff (xt2tick x) (xt2tick xnow))
    ∧ (∀ (x xnow : XTime) (cb : CbId), ¬(0 < xdiff x xnow ∧ xdiff x xnow ≤ (SAFE_SPAN : Int)) →
      (xstepChoice xnow x cb).1 = xt2tick xnow ∨ (xstepChoice xnow x cb).1 = tickAdd (xt2tick xnow) SAFE_SPAN)
    ∧ ∀ x y xnow : XTime, 0 ≤ xdiff x xnow → xdiff x xnow ≤ (SAFE_SPAN : Int) → 0 ≤ xdiff y xnow →
        xdiff y xnow ≤ (SAFE_SPAN : Int) → (notlater (xt2tick x) (xt2tick y) = true ↔ xdiff x y ≤ 0)

/-- tick2xt(t, xref) is xref plus the signed difference of the ticks, and is the unique value within -2^31 to 2^31-1 ticks
of xref whose low 32 bits are t (R128). -/
def Obligations.TickExtensionUnique : Prop :=
  ∀ (t : Tick) (xref : XTime) (y : Int),
    tick2xt t xref = xref.toNat + sdiff t (xt2tick xref) ∧
    ((-2 ^ 31 ≤ y - xref.toNat ∧ y - xref.toNat ≤ 2 ^ 31 - 1 ∧ BitVec.ofInt 32 y = t) ↔ y = tick2xt t xref)

/-! ## Clock -/

/-- GETTICK and GETXTIME answer the clock and write nothing (R116, R117): for every accepted quiet state both complete,
and the two answers of one sample agree in their low 32 bits. -/
def Obligations.ClockReadsAnswer : Prop :=
  ∀ s : State, s.acceptance .plain = .accepted → s.quiet →
    exec .gettick s = .next { s with trace := s.trace ++ [.resp (s.tick.setWidth 64)] }
      ∧ exec .getxtime s = .next { s with trace := s.trace ++ [.resp s.xtime] }
      ∧ s.xtime.setWidth 32 = s.tick

/-- CLK counts, and nothing else of the machine changes (R115); HOST's port is not read. -/
def Obligations.ClockTurnCounts : Prop :=
  ∀ (s : State) (n : Nat) (ts : List Turn), s.turns = .env (.clk n) :: ts →
    step s = .next { s with turns := ts, xtime := s.xtime + BitVec.ofNat 64 n }

/-! ## Scheduler -/

/-- unlink(j) (R137): a queued job leaves the queue, the order of the rest kept, and the exact-counter falls by one if the
stored flag says it was exact; a job that is not queued changes nothing. What unlink returns is `queued` before it. -/
def Obligations.UnlinkRemovesJob : Prop :=
  ∀ (s : State) (j : JobId),
    (j ∈ s.q →
      s.queued j = true ∧ j ∉ (s.unlink j).q ∧ (s.unlink j).q = s.q.filter (· != j)
        ∧ s.unlink j = { s with
            q := (s.unlink j).q
            exactCnt := if flApprox (s.job j).fl then s.exactCnt else s.exactCnt - 1 })
      ∧ (j ∉ s.q → s.queued j = false ∧ s.unlink j = s)

/-- The insertion position (R139): the job goes before the first entry whose deadline is strictly later, or at the tail;
so it goes after every entry before that one, and the rest keep their order. -/
def Obligations.InsertBeforeFirstLater : Prop :=
  ∀ (dlOf : JobId → Tick) (j : JobId) (dl : Tick) (q : List JobId),
    ∃ pre post, q = pre ++ post ∧ insertBefore dlOf j dl q = pre ++ j :: post
      ∧ (∀ e ∈ pre, later (dlOf e) dl = false) ∧ (∀ e, post.head? = some e → later (dlOf e) dl = true)

/-- SCHED (R136, R138 to R141): for every accepted quiet state below the nesting limit it completes with the queue, the
record and the counter of its lines, the mask pair and one response; every other field is as before. A requested IMMED, and
a deadline due now, store the present tick and set IMMED (R138); otherwise the operands are stored. -/
def Obligations.SchedCompletes : Prop :=
  ∀ (s : State) (j : JobId) (dl : Tick) (cb : CbId) (fl : FlagSet),
    s.acceptance .plain = .accepted → s.quiet → s.irqNest ≠ NEST_MAX → s.irqSettled → StoreInv s →
    ∃ t, exec (.sched j dl cb fl) s = .next t
      ∧ ScheduledFrom s t s.tick j dl cb fl
      ∧ (t.job j).cb = cb
      ∧ (fl.getLsbD 1 = true ∨ sdiff dl s.tick ≤ 0 → (t.job j).dl = s.tick ∧ (t.job j).fl = fl ||| 0b010#3)
      ∧ (fl.getLsbD 1 = false → 0 < sdiff dl s.tick → (t.job j).dl = dl ∧ (t.job j).fl = fl)
      ∧ t.trace = s.trace ++ maskPair s.irqNest ++ [.resp 0#64]
      ∧ t = { s with q := t.q, exactCnt := t.exactCnt, jobs := t.jobs, trace := t.trace }

/-- The queue stays ordered while its deadlines fit one window (R29, R143, 95_test_vectors.md S1). SCHED on any sample keeps it
ordered, with the new entry there exactly once; every operation of the table keeps it, undisturbed, with the window holding
the present and the deadline it queues too; and so does the rest of RUNSTEP, from the dequeue on, when its sleep call answers
REACHED. That the last is a step of its own is the model's choice (log entry 6). -/
def Obligations.ScheduleKeepsOrder : Prop :=
  (∀ (s : State) (now : Tick) (j : JobId) (dl : Tick) (cb : CbId) (fl : FlagSet),
    StoreInv s → s.q.Nodup → s.queueOrdered →
    InWindow (fun d => (∃ e ∈ s.q, d = s.dlOf e) ∨ d = (normalise now dl fl).1) →
    (s.schedule now j dl cb fl).queueOrdered ∧ (s.schedule now j dl cb fl).q.Nodup
      ∧ j ∈ (s.schedule now j dl cb fl).q
      ∧ (s.schedule now j dl cb fl).q.length = if j ∈ s.q then s.q.length else s.q.length + 1)
    ∧ (∀ (i : Instr) (s : State),
      s.quiet → s.irqSettled → StoreInv s → s.q.Nodup → s.queueOrdered →
      InWindow (fun d => (∃ e ∈ s.q, d = s.dlOf e) ∨ d = s.tick ∨ newDeadline i s = some d) →
      ∃ t, exec i s = .next t ∧ t.queueOrdered ∧ t.q.Nodup)
    ∧ ∀ (s : State) (ts : List Turn),
        s.turns = .sleepReturns .reached :: ts → s.quiet → StoreInv s → s.q.Nodup → s.queueOrdered →
        InWindow (fun d => (∃ e ∈ s.q, d = s.dlOf e) ∨ d = s.tick
          ∨ ∃ h, s.q.head? = some h ∧ (s.job h).cb = CB_XSTEP ∧ newDeadline (.xstep h) s = some d) →
        ∃ t, step s = .next t ∧ t.queueOrdered ∧ t.q.Nodup

/-- CANCEL (R145, R146): for every accepted quiet state below the nesting limit it completes; a queued job is removed
and the answer is 1, otherwise nothing changes and the answer is 0; no job record is written. -/
def Obligations.CancelCompletes : Prop :=
  ∀ (s : State) (j : JobId),
    s.acceptance .plain = .accepted → s.quiet → s.irqNest ≠ NEST_MAX → s.irqSettled →
    exec (.cancel j) s = .next { s with
      q := (s.unlink j).q
      exactCnt := (s.unlink j).exactCnt
      trace := s.trace ++ maskPair s.irqNest ++ [.resp (if j ∈ s.q then 1#64 else 0#64)] }

/-- SCHEDX (R150): the old entry goes, XDL and XCB are written, and XSTEP schedules by the remaining distance; it
completes for every accepted quiet state with three levels of nesting left. -/
def Obligations.SchedxCompletes : Prop :=
  ∀ (s : State) (j : JobId) (xdl : XTime) (cb : CbId),
    s.acceptance .plain = .accepted → s.quiet → s.irqNest.toNat + 3 ≤ NEST_MAX.toNat → s.irqSettled → StoreInv s →
    ∃ t, exec (.schedx j xdl cb) s = .next t
      ∧ (let c := xstepChoice s.xtime xdl cb
         t.job j = { scheduledRec s.tick c.1 c.2.1 c.2.2 (s.job j) with xdl := xdl, xcb := cb }
           ∧ t.q = scheduledQueue s.tick c.1 c.2.2 j s
           ∧ t.exactCnt = (s.unlink j).exactCnt)
      ∧ (∀ k, k ≠ j → t.job k = s.job k)
      ∧ t.trace = s.trace ++ maskPair s.irqNest ++ [.resp 0#64]
      ∧ t = { s with q := t.q, exactCnt := t.exactCnt, jobs := t.jobs, trace := t.trace }

/-- The three branches of XSTEP (R152, R153): beyond the safe span an intermediate entry SAFE_SPAN ahead that keeps
CB_XSTEP, and one tick farther would compare as past; within it the final entry at exactly the low 32 bits of the wide
deadline; now or past, immediate, which within 2^31 is what normalising the translated deadline gives, and beyond that a
translated deadline can be in the future. Every entry carries APPROX and none IRQOFF (R150, R155 e), and in the first two
normalisation does not fire. -/
def Obligations.XstepBranches : Prop :=
  ∀ (xnow xdl : XTime) (xcb : CbId),
    let c := xstepChoice xnow xdl xcb
    flApprox c.2.2 = true ∧ flIrqOff c.2.2 = false
      ∧ (xdiff xdl xnow > SAFE_SPAN →
          c.2.1 = CB_XSTEP ∧ sdiff c.1 (xt2tick xnow) = SAFE_SPAN ∧ due (tickAdd c.1 1) (xt2tick xnow) = true
            ∧ normalise (xt2tick xnow) c.1 c.2.2 = (c.1, FL_APPROX))
      ∧ (0 < xdiff xdl xnow → xdiff xdl xnow ≤ SAFE_SPAN →
          c.2.1 = xcb ∧ c.1 = xt2tick xdl ∧ sdiff c.1 (xt2tick xnow) = xdiff xdl xnow
            ∧ normalise (xt2tick xnow) c.1 c.2.2 = (c.1, FL_APPROX))
      ∧ (xdiff xdl xnow ≤ 0 →
          c.2.1 = xcb ∧ normalise (xt2tick xnow) c.1 c.2.2 = (xt2tick xnow, 0b011#3))
      ∧ (-2 ^ 31 ≤ xdiff xdl xnow → xdiff xdl xnow ≤ 0 →
          normalise (xt2tick xnow) c.1 c.2.2 = normalise (xt2tick xnow) (xt2tick xdl) FL_APPROX)
      ∧ (∃ x y : XTime, xdiff y x < -2 ^ 31 ∧ later (xt2tick y) (xt2tick x) = true)

/-- XSTEP (R152): for every quiet state in which SEQ can act, with two levels of nesting left, it completes with its
job rescheduled by the branches above and writes nothing else. -/
def Obligations.XstepCompletes : Prop :=
  ∀ (s : State) (j : JobId),
    s.seqFree → s.quiet → s.irqNest.toNat + 2 ≤ NEST_MAX.toNat → s.irqSettled → StoreInv s →
    ∃ t, exec (.xstep j) s = .next t
      ∧ (let c := xstepChoice s.xtime (s.job j).xdl (s.job j).xcb
         ScheduledFrom s t s.tick j c.1 c.2.1 c.2.2)
      ∧ t.trace = s.trace ++ maskPair s.irqNest
      ∧ t = { s with q := t.q, exactCnt := t.exactCnt, jobs := t.jobs, trace := t.trace }

/-! ## Run loop -/

/-- RUNSTEP up to its sleep call (R165 steps 1 to 2d and 3 to 3b, R167, R168), and RUNLOOP, which sets RL_LOOP and does
the same (R177): both complete for every accepted quiet state below the nesting limit. That the operation rests in the
call is the model's choice (log entry 6). -/
def Obligations.RunstepEntersSleep : Prop :=
  ∀ s : State, s.acceptance .runner = .accepted → s.quiet → s.irqNest ≠ NEST_MAX →
    exec .runstep s = .next { s with
        irqNest := s.irqNest + 1, rlState := .sleeping, trace := s.trace ++ maskOn s.irqNest ++ [callOf s] }
      ∧ exec .runloop s = .next { s with
        rlLoop := true, irqNest := s.irqNest + 1, rlState := .sleeping
        trace := s.trace ++ maskOn s.irqNest ++ [callOf s] }

/-- The rest of RUNSTEP when the sleep call answers REACHED and the head is a job of HOST's (R165 steps 2e to 5g, R166,
R169, R170, R172): the head is dequeued, interrupts are restored unless it has IRQOFF, lateness is counted, the watchdog
is armed and the callback is dispatched. Where the restoring brings IRQ_NEST to zero with an interrupt pending, RIRQ runs
before step 5 (R283 b). The model's choices here: that this is a step of its own (log entry 6), and that a stored IMMED is
never late (log entry 37). -/
def Obligations.SleepReachedDispatches : Prop :=
  ∀ (s : State) (ts : List Turn) (h : JobId) (rest : List JobId),
    s.turns = .sleepReturns .reached :: ts → s.seqFree → s.rlState = .sleeping → s.quiet → s.q = h :: rest →
    s.q.Nodup → due (s.job h).dl s.tick = true → s.irqNest ≠ 0#8 →
    (s.job h).cb ≠ CB_XSTEP → (s.job h).cb ≠ CB_RPROC →
    let late := isLate Config.params (s.job h) s.tick
    let shown := (if late then [.late h (-(sdiff (s.job h).dl s.tick))] else []) ++ [.wdArm, .dispatch h (s.job h).cb]
    (¬Serves s h →
      step s = .next { s with
        turns := ts
        rlState := .dispatching
        q := rest
        exactCnt := if flApprox (s.job h).fl then s.exactCnt else s.exactCnt - 1
        irqNest := if flIrqOff (s.job h).fl then s.irqNest else s.irqNest - 1
        lateCnt := if late then s.lateCnt + 1 else s.lateCnt
        wdArmed := true
        curJob := h
        trace := s.trace ++ (if flIrqOff (s.job h).fl then [] else maskOff s.irqNest) ++ shown })
      ∧ (Serves s h → h ≠ RJOB →
        step s = .next { served (dequeued s ts h rest) with
          rlState := .dispatching
          lateCnt := if late then s.lateCnt + 1 else s.lateCnt
          wdArmed := true
          curJob := h
          trace := (served (dequeued s ts h rest)).trace ++ shown })

/-- The same when the head is an intermediate entry of an extended chain (R152, R165 step 5e, R170): XSTEP reschedules
it under the armed watchdog and the step finishes by itself; HOST sees no dispatch. Under RL_LOOP finish() starts the next
RUNSTEP up to its sleep call, otherwise it answers (R165 line f3, R177). Where step 4 serves a pending interrupt, RIRQ has
queued RJOB before that (R283 b). That this is a step of its own is the model's choice (log entry 6). -/
def Obligations.SleepReachedRunsXstep : Prop :=
  ∀ (s : State) (ts : List Turn) (h : JobId) (rest : List JobId),
    s.turns = .sleepReturns .reached :: ts → s.seqFree → s.rlState = .sleeping → s.quiet → s.q = h :: rest →
    s.q.Nodup → StoreInv s → due (s.job h).dl s.tick = true → s.irqNest ≠ 0#8 → s.irqNest ≠ NEST_MAX →
    (s.job h).cb = CB_XSTEP → (s.job h).fl = FL_APPROX →
    let c := xstepChoice s.xtime (s.job h).xdl (s.job h).xcb
    (¬Serves s h →
      ∃ t, step s = .next t
        ∧ t.job h = scheduledRec s.tick c.1 c.2.1 c.2.2 (s.job h)
        ∧ t.q = insertBefore s.dlOf h (normalise s.tick c.1 c.2.2).1 rest
        ∧ (∀ k, k ≠ h → t.job k = s.job k)
        ∧ t.trace = s.trace ++ maskOff s.irqNest ++ [.wdArm] ++ maskPair (s.irqNest - 1) ++ [.wdDisarm]
            ++ (if s.rlLoop then maskOn (s.irqNest - 1) ++ [callOf t] else [.resp 0#64])
        ∧ t = { s with
            turns := ts, rlState := if s.rlLoop then .sleeping else .stopped, curJob := NIL, wdArmed := false
            irqNest := if s.rlLoop then s.irqNest else s.irqNest - 1, q := t.q, jobs := t.jobs, trace := t.trace })
      ∧ (Serves s h → h ≠ RJOB →
        let u := served (dequeued s ts h rest)
        ∃ t, step s = .next t
          ∧ t.job h = scheduledRec s.tick c.1 c.2.1 c.2.2 (s.job h)
          ∧ t.q = insertBefore u.dlOf h (normalise s.tick c.1 c.2.2).1 u.q
          ∧ (∀ k, k ≠ h → t.job k = u.job k)
          ∧ t.trace = u.trace ++ [.wdArm, .irqMask true, .irqMask false, .wdDisarm]
              ++ (if s.rlLoop then [.irqMask true, callOf t] else [.resp 0#64])
          ∧ t = { u with
              rlState := if s.rlLoop then .sleeping else .stopped, curJob := NIL, wdArmed := false
              irqNest := if s.rlLoop then 1#8 else 0#8, q := t.q, jobs := t.jobs, trace := t.trace })

/-- The same when the head is RJOB with the processing callback (R165 step 5f, R170): the watchdog is armed, CUR_JOB is RJOB
and RPROC runs from there. Where step 4 serves a pending interrupt, RIRQ has queued RJOB again before that and rewritten its
record, which is immediate and so not late (R172, R245, R283 b). The model's choices here: that this is a step of its own (log entry
6), and that a stored IMMED is never late (log entry 37). -/
def Obligations.SleepReachedRunsRproc : Prop :=
  ∀ (s : State) (ts : List Turn) (rest : List JobId),
    s.turns = .sleepReturns .reached :: ts → s.seqFree → s.rlState = .sleeping → s.quiet → s.q = RJOB :: rest →
    s.q.Nodup → StoreInv s → due (s.job RJOB).dl s.tick = true → s.irqNest ≠ 0#8 → (s.job RJOB).cb = CB_RPROC →
    let late := isLate Config.params (s.job RJOB) s.tick
    (¬Serves s RJOB →
      step s = exec .rproc { dequeued s ts RJOB rest with
        irqNest := if flIrqOff (s.job RJOB).fl then s.irqNest else s.irqNest - 1
        lateCnt := if late then s.lateCnt + 1 else s.lateCnt
        wdArmed := true
        curJob := RJOB
        trace := s.trace ++ (if flIrqOff (s.job RJOB).fl then [] else maskOff s.irqNest)
          ++ (if late then [.late RJOB (-(sdiff (s.job RJOB).dl s.tick))] else []) ++ [.wdArm] })
      ∧ (Serves s RJOB →
        let u := served (dequeued s ts RJOB rest)
        RJOB ∈ u.q ∧ u.irqTs = s.tick
          ∧ step s = exec .rproc { u with wdArmed := true, curJob := RJOB, trace := u.trace ++ [.wdArm] })

/-- A RUNSTEP whose sleep is ended by an event selects no job and loses none (R166, R168, R179): run from rest and
interrupted with IRQ_PEND = b, it leaves the machine as it was, but for b, the trace and CUR_JOB = NIL; where step 4 brings
IRQ_NEST to zero with b = 1, RIRQ runs there (R169, R283 b), RJOB joins the queue and every job stays in it. Under RL_LOOP
the ended step answers nothing and the next RUNSTEP goes up to its sleep call (R165 line f3, R177). That the step rests in its
sleep call is the model's choice (log entry 6), and that INTERRUPTED is always admitted (log entry 17). -/
def Obligations.InterruptedStepLosesNothing : Prop :=
  (∀ (s u : State) (ts : List Turn) (b : Bool),
    s.acceptance .runner = .accepted → s.quiet → s.irqNest ≠ NEST_MAX → s.wdArmed = false →
    exec .runstep s = .next u →
    ∃ t, step { u with irqPend := b, turns := .sleepReturns .interrupted :: ts } = .next t
      ∧ (b = false ∨ s.irqNest ≠ 0#8 →
        t.trace = u.trace ++ maskOff u.irqNest ++ [.resp 0#64]
          ∧ t = { s with turns := ts, irqPend := b, curJob := NIL, trace := t.trace })
      ∧ (b = true → s.irqNest = 0#8 →
        let v := served { s with turns := ts, irqPend := true, trace := u.trace }
        t = { v with curJob := NIL, trace := v.trace ++ [.resp 0#64] } ∧ RJOB ∈ t.q ∧ ∀ j ∈ s.q, j ∈ t.q))
    ∧ ∀ (s : State) (ts : List Turn),
        s.turns = .sleepReturns .interrupted :: ts → s.seqFree → s.rlState = .sleeping → s.rlLoop = true → s.quiet →
        s.irqNest ≠ 0#8 → s.wdArmed = false →
        (¬(s.irqPend = true ∧ s.irqNest = 1#8) →
          step s = .next { s with
            turns := ts, curJob := NIL
            trace := s.trace ++ maskOff s.irqNest ++ maskOn (s.irqNest - 1) ++ [callOf s] })
          ∧ (s.irqPend = true → s.irqNest = 1#8 →
            let v := served { s with turns := ts }
            step s = .next { v with
                curJob := NIL, irqNest := 1#8, trace := v.trace ++ [.irqMask true, callOf v] }
              ∧ RJOB ∈ v.q ∧ ∀ j ∈ s.q, j ∈ v.q)

/-- CBRET (R171): finish() disarms the watchdog, clears CUR_JOB and stops, and either answers the RUNSTEP or, under
RL_LOOP, starts the next one; it completes for every quiet state in DISPATCHING (below the nesting limit under RL_LOOP)
and does not touch IRQ_NEST otherwise. That under RL_LOOP the next state rests inside the next RUNSTEP's sleep call, with
RL_STATE = SLEEPING, is the model's choice (log entry 6). -/
def Obligations.CbretFinishes : Prop :=
  ∀ s : State, s.acceptance .callbackReturn = .accepted → s.quiet →
    (s.rlLoop = false →
      exec .cbret s = .next { s with
        wdArmed := false, curJob := NIL, rlState := .stopped
        trace := s.trace ++ (if s.wdArmed then [.wdDisarm] else []) ++ [.resp 0#64] })
      ∧ (s.rlLoop = true → s.irqNest ≠ NEST_MAX →
        exec .cbret s = .next { s with
          wdArmed := false, curJob := NIL, rlState := .sleeping, irqNest := s.irqNest + 1
          trace := s.trace ++ (if s.wdArmed then [.wdDisarm] else []) ++ maskOn s.irqNest ++ [callOf s] })

/-- IRQDIS and IRQEN where they do not fault (R180 to R183): IRQ_NEST moves by one, the mask shows on the transitions from
and to zero, and a pending RIRQ runs right after IrqMask(0) and before the response. -/
def Obligations.NestingCommandsComplete : Prop :=
  ∀ s : State, s.acceptance .plain = .accepted → s.quiet →
    (s.irqNest ≠ NEST_MAX →
      exec .irqdis s = .next { s with
        irqNest := s.irqNest + 1, trace := s.trace ++ maskOn s.irqNest ++ [.resp 0#64] })
      ∧ (s.irqNest ≠ 0#8 → ¬(s.irqNest = 1#8 ∧ s.irqPend = true) →
        exec .irqen s = .next { s with
          irqNest := s.irqNest - 1, trace := s.trace ++ maskOff s.irqNest ++ [.resp 0#64] })
      ∧ (s.irqNest = 1#8 → s.irqPend = true →
        exec .irqen s = .next
          ((State.rirq { s with irqNest := 0#8, trace := s.trace ++ [.irqMask false] }).emit (.resp 0#64)))

/-- The nesting counter neither wraps nor goes below zero (R180, R181, D16): a disable at 255 and an enable at 0 raise
HardFault(ASSERT), in every operation that has one, and what its lines before that have done stands (R272). IRQDIS, SCHED,
CANCEL, SCHEDX, RUNSTEP and XSTEP fault with nothing done; SCHEDX one or two levels below the limit after its lines 2 and 3, and
XSTEP one level below in its inner SCHED; RUNLOOP with RL_LOOP set; CBRET under RL_LOOP with its step finished; single-shot RRX
after its frames up to frequency synthesis. -/
def Obligations.NestingLimitsAssert : Prop :=
  (∀ s : State, s.acceptance .plain = .accepted →
      (s.irqNest = NEST_MAX →
        exec .irqdis s = .next (s.hardFault .assertion)
          ∧ (∀ j dl cb fl, exec (.sched j dl cb fl) s = .next (s.hardFault .assertion))
          ∧ (∀ j, exec (.cancel j) s = .next (s.hardFault .assertion))
          ∧ (∀ j xdl cb, exec (.schedx j xdl cb) s = .next (s.hardFault .assertion)))
        ∧ (s.irqNest = NEST_MAX - 1 ∨ s.irqNest = NEST_MAX - 2 → s.quiet → ∀ j xdl cb,
          let u := (s.unlink j).setJob j { s.job j with xdl := xdl, xcb := cb }
          exec (.schedx j xdl cb) s = .next (State.hardFault .assertion { u with irqNest := NEST_MAX }))
        ∧ (s.irqNest = NEST_MAX → s.quiet → s.busyClears →
          let p := Config.params
          ∃ u, exec (.rrx false) s = .next (u.hardFault .assertion)
            ∧ FramesOnly { s with chipMode := .fs, tcxo := tcxoAfter p s } u
            ∧ Shows s u
                (configureShown p s.rcfg .rx
                  ++ (match s.rcfg.kind with
                      | .lora => [.frame (p.opc .wreg :: (addrBytes p.symtoAddr ++ symtoBytes p s.rcfg.rxsyms))]
                      | .fsk => [])
                  ++ [.frame [p.opc .fs]]))
        ∧ (s.irqNest = 0#8 → exec .irqen s = .next (s.hardFault .assertion)))
    ∧ (∀ s : State, s.acceptance .runner = .accepted → s.irqNest = NEST_MAX →
        exec .runstep s = .next (s.hardFault .assertion)
          ∧ (s.quiet → exec .runloop s = .next (State.hardFault .assertion { s with rlLoop := true })))
    ∧ (∀ s : State, s.acceptance .callbackReturn = .accepted → s.quiet → s.rlLoop = true → s.irqNest = NEST_MAX →
        exec .cbret s = .next (State.hardFault .assertion { s with
          wdArmed := false, curJob := NIL, rlState := .stopped
          trace := s.trace ++ (if s.wdArmed then [.wdDisarm] else []) }))
    ∧ ∀ (s : State) (j : JobId), s.seqFree →
        (s.irqNest = NEST_MAX → exec (.xstep j) s = .next (s.hardFault .assertion))
          ∧ (s.irqNest = NEST_MAX - 1 → s.quiet →
            exec (.xstep j) s = .next (State.hardFault .assertion { s with irqNest := NEST_MAX }))

/-- Watchdog expiry (R276, D15): WDG acts only while WD_ARMED = 1, and then raises HardFault(WATCHDOG). A callback that never
returns trips it (R176): armed in DISPATCHING with nothing left of HOST and of the script (log entry 39), the step is that
fault. -/
def Obligations.WatchdogExpiry : Prop :=
  ∀ s : State,
    (∀ ts, s.turns = .env .wdg :: ts →
      (s.wdArmed = true → step s = .next (State.hardFault .watchdog { s with turns := ts }))
        ∧ (s.wdArmed = false → step s = .next { s with turns := ts }))
      ∧ (s.turns = [] → s.host = [] → s.rlState = .dispatching → s.wdArmed = true →
        step s = .next (s.hardFault .watchdog))

/-! ## The interrupt -/

/-- RIRQ (R245): selected when IRQ_PEND = 1, IRQ_NEST = 0 and FAULT = 0, it clears IRQ_PEND, captures the tick and queues
RJOB exact and immediate, and writes nothing else; it emits only the mask pair. -/
def Obligations.RirqQueuesProcessing : Prop :=
  ∀ s : State, s.irqPend = true → s.irqNest = 0#8 → s.fault = false → StoreInv s →
    ∃ t, exec .rirq s = .next t ∧ t.irqPend = false ∧ t.irqTs = s.tick
      ∧ ScheduledFrom s t s.tick RJOB s.tick CB_RPROC FL_IMMED
      ∧ t.job RJOB = { s.job RJOB with dl := s.tick, cb := CB_RPROC, fl := 0b010#3 }
      ∧ t.trace = s.trace ++ [.irqMask true, .irqMask false]
      ∧ t = { s with
          irqPend := false, irqTs := s.tick, q := t.q, exactCnt := t.exactCnt, jobs := t.jobs, trace := t.trace }

/-- An edge (R246, R282, R283): with interrupts suppressed it is only latched; with IRQ_NEST = 0 and FAULT = 0 it is
served at that instant. -/
def Obligations.EdgeLatchedOrServed : Prop :=
  ∀ (s : State) (ts : List Turn), s.turns = .env .edge :: ts →
    (s.irqNest ≠ 0#8 ∨ s.fault = true → step s = .next { s with turns := ts, irqPend := true })
      ∧ (s.irqNest = 0#8 → s.fault = false →
        step s = exec .rirq { s with turns := ts, irqPend := true })

/-! ## Bus frames -/

/-- The six frame shapes (R190, R195 to R200): where SEQ can act, nothing else acts and the busy line reads 0 after n
polls, each sends exactly its bytes and leaves RSLEEP = 0 and chip-select released; reads return the bytes after the
status. Nothing else changes. -/
def Obligations.FrameShapes : Prop :=
  ∀ (s : State) (n : Nat), s.seqFree → s.quiet → s.busyNow = some n →
    (∀ op v, exec (.bcmd op v) s = .next (frameDone op v false 0 n s))
      ∧ (∀ op k, exec (.bread op k) s = .next (frameDone op [] true k n s))
      ∧ (∀ a v, exec (.bwreg a v) s
          = .next (frameDone (Config.params.opc .wreg) (a.extractLsb' 8 8 :: a.extractLsb' 0 8 :: v) false 0 n s))
      ∧ (∀ a k, exec (.brreg a k) s
          = .next (frameDone (Config.params.opc .rreg) [a.extractLsb' 8 8, a.extractLsb' 0 8] true k n s))
      ∧ (∀ o v, exec (.bwbuf o v) s = .next (frameDone (Config.params.opc .wbuf) (o :: v) false 0 n s))
      ∧ (∀ o k, exec (.brbuf o k) s = .next (frameDone (Config.params.opc .rbuf) [o] true k n s))
      ∧ (∀ op v st k, FramesOnly s (frameDone op v st k n s) ∧ (frameDone op v st k n s).busData.length = k)

/-- The chip commands (R100 to R103): each is one frame of the shape and with the payload of its row. -/
def Obligations.ChipCommandFrames : Prop :=
  ∀ (s : State) (n : Nat), s.seqFree → s.quiet → s.busyNow = some n →
    let p := Config.params
    exec .ccSleep s = .next (frameDone (p.opc .sleep) [p.coldFlag] false 0 n s)
      ∧ exec .ccStandby s = .next (frameDone (p.opc .standby) [p.stdbyCfg] false 0 n s)
      ∧ exec .ccFs s = .next (frameDone (p.opc .fs) [] false 0 n s)
      ∧ exec .ccTx s = .next (frameDone (p.opc .tx) (timeoutBytes p p.txTimeout) false 0 n s)
      ∧ exec .ccTxcw s = .next (frameDone (p.opc .txcw) [] false 0 n s)
      ∧ (∀ t, exec (.ccRx t) s = .next (frameDone (p.opc .rx) (timeoutBytes p t) false 0 n s))
      ∧ exec .ccRegmode s = .next (frameDone (p.opc .regmode) [p.regmode] false 0 n s)
      ∧ exec .ccPkttype s = .next (frameDone (p.opc .pkttype) [p.kindByte s.rcfg.kind] false 0 n s)
      ∧ exec .ccFreq s = .next (frameDone (p.opc .freq) (freqBytes p s.rcfg.freq) false 0 n s)
      ∧ exec .ccModparams s = .next (frameDone (p.opc .modparams) (modBytes p s.rcfg) false 0 n s)
      ∧ (∀ d, exec (.ccPktparams d) s = .next (frameDone (p.opc .pktparams) (pktBytes p s.rcfg d) false 0 n s))
      ∧ exec .ccClrirq s = .next (frameDone (p.opc .clrirq) [0xFF#8, 0xFF#8] false 0 n s)
      ∧ (∀ m, exec (.ccIrqparams m) s = .next (frameDone (p.opc .irqparams) (irqRouteBytes p m) false 0 n s))
      ∧ (∀ x, exec (.ccTxparams x) s = .next (frameDone (p.opc .txparams) (powBytes p x) false 0 n s))
      ∧ exec .ccGetirq s = .next (frameDone (p.opc .getirq) [] true 2 n s)
      ∧ exec .ccRxbufstatus s = .next (frameDone (p.opc .rxbufstatus) [] true 2 n s)
      ∧ exec .ccPktstatus s = .next (frameDone (p.opc .pktstatus) [] true p.nPktStatus n s)
      ∧ (∀ a v, exec (.wreg a v) s = .next (frameDone (p.opc .wreg) (addrBytes a ++ v) false 0 n s))
      ∧ (∀ a k, exec (.rreg a k) s = .next (frameDone (p.opc .rreg) (addrBytes a) true k n s))
      ∧ (∀ o v, exec (.wbuf o v) s = .next (frameDone (p.opc .wbuf) (o :: v) false 0 n s))
      ∧ (∀ o k, exec (.rbuf o k) s = .next (frameDone (p.opc .rbuf) [o] true k n s))

/-- A busy line that never clears (R192, U9): in every row that is one frame, the six shapes and the chip commands, the frame
does not proceed, and SEQ hangs with chip-select asserted and no byte sent. From there no command runs, every step but a
platform reset leaves SEQ hanging with chip-select as it was, and only WDG, while armed, faults the block; armed it does so
at its turn, and where nothing is left of the script (R176; log entry 39). The one recorded poll is the model's choice (log
entry 11), and so is the field `hung` (log entry 12). -/
def Obligations.BusyLineHangsFrame : Prop :=
  (∀ (s : State) (i : Instr), s.seqFree → s.quiet → s.busyNow = none →
      i.isCommand = false → i ≠ .rirq → i ≠ .rproc → (∀ j, i ≠ .xstep j) →
      exec i s = .next { s with
        hung := true, rsleep := false, cs := .asserted, busyIn := s.busyIn.tail
        trace := s.trace ++ [.cs .asserted, .busyPoll] })
    ∧ ∀ u : State, u.hung = true → u.fault = false →
        (∀ i : Instr, i.isCommand = true → exec i u = .next u)
          ∧ (∀ t, step u = .next t → (∀ x ts, u.turns ≠ .platformReset x :: ts) →
            t.hung = true ∧ t.cs = u.cs ∧ (t.fault = true → u.wdArmed = true ∧ t.faultCode = 0x04#8))
          ∧ (u.wdArmed = true → u.turns = [] ∨ (∃ ts, u.turns = .env .wdg :: ts) →
            ∃ t, step u = .next t ∧ t.fault = true ∧ t.faultCode = 0x04#8)
          ∧ (∀ x ts, u.turns = .platformReset x :: ts → ∃ t, step u = .next t ∧ t.hung = false ∧ t.cs = .deasserted)

/-! ## Transceiver driver -/

/-- RTX (R218, R224 to R226, R228): for every accepted quiet state whose busy line clears it completes, showing configure(TX),
the payload unless continuous wave, the clamped power, the antenna, the arming command and the response, in this order and
nothing else; ROP, CHIPMODE, ANT and TCXO are as R224 leaves them and nothing else changes. The clamp is
max(PMIN, min(PMAX, TXPOW)) over signed integers (R226). That a SYNC_LEN of 0 is admitted is log entry 38. -/
def Obligations.RtxArmsTransmit : Prop :=
  (∀ x : BitVec 8, clampPower Config.params x = max Config.params.pmin (min Config.params.pmax x.toInt))
    ∧ ∀ (s : State) (mode : Bool), s.acceptance .plain = .accepted → s.quiet → s.busyClears →
      let p := Config.params
      ∃ t, exec (.rtx mode) s = .next t
        ∧ FramesOnly { s with
            rop := if mode then .txcw else .tx, chipMode := .tx, ant := .tx, tcxo := tcxoAfter p s } t
        ∧ Shows s t
            (configureShown p s.rcfg .tx
              ++ (if mode then [] else
                  [.frame (p.opc .wbuf :: p.txbufBase :: Memory.readFrom s.frame 0 s.rcfg.datalen.toNat)])
              ++ [.frame (p.opc .txparams :: powBytes p (clampPower p s.rcfg.txpow)), .out (.pinAnt .tx),
                  .frame (if mode then [p.opc .txcw] else p.opc .tx :: timeoutBytes p p.txTimeout), .out (.resp 0#64)])

/-- RRX in continuous mode (R230, R231): for every accepted quiet state whose busy line clears it completes, showing
configure(RX), frequency synthesis, then the antenna, then the receive command without a timeout, then the response, in this
order and nothing else: no symbol timeout, no mask pair, no wait. That a SYNC_LEN of 0 is admitted is log entry 38. -/
def Obligations.RrxArmsContinuous : Prop :=
  ∀ s : State, s.acceptance .plain = .accepted → s.quiet → s.busyClears →
    let p := Config.params
    ∃ t, exec (.rrx true) s = .next t
      ∧ FramesOnly { s with rop := .rxc, chipMode := .rx, ant := .rx, tcxo := tcxoAfter p s } t
      ∧ Shows s t
          (configureShown p s.rcfg .rx
            ++ [.frame [p.opc .fs], .out (.pinAnt .rx), .frame (p.opc .rx :: timeoutBytes p p.rxNoTimeout),
                .out (.resp 0#64)])

/-- RRX in single-shot mode (R230, R232 to R234): for every accepted quiet state whose busy line clears, below the nesting
limit, it completes, showing configure(RX), the symbol timeout for LORA, frequency synthesis, then with interrupts suppressed
the warning if the start time is past, the antenna and the receive command, then the mask and the response, in this order and
nothing else; the start time is due at the end, and IRQ_NEST is restored. That the clock then reads exactly the start time,
in a quiet run, is the model's choice (log entry 13), and so is that encoders of length 0 are admitted (log entry 38). -/
def Obligations.RrxArmsSingle : Prop :=
  ∀ s : State, s.acceptance .plain = .accepted → s.quiet → s.busyClears → s.irqNest ≠ NEST_MAX → s.irqSettled →
    let p := Config.params
    ∃ t, exec (.rrx false) s = .next t
      ∧ FramesOnly { s with
          rop := .rxs, chipMode := .rx, ant := .rx, tcxo := tcxoAfter p s, xtime := dueTime s.rcfg.rxtime s.xtime } t
      ∧ due s.rcfg.rxtime t.tick = true
      ∧ Shows s t
          (configureShown p s.rcfg .rx
            ++ (match s.rcfg.kind with
                | .lora => [.frame (p.opc .wreg :: (addrBytes p.symtoAddr ++ symtoBytes p s.rcfg.rxsyms))]
                | .fsk => [])
            ++ [.frame [p.opc .fs]]
            ++ (if s.irqNest = 0#8 then [.out (.irqMask true)] else [])
            ++ (if sdiff s.rcfg.rxtime s.tick < 0 then [.out (.warn 0x01#8)] else [])
            ++ [.out (.pinAnt .rx),
                .frame (p.opc .rx :: timeoutBytes p (match s.rcfg.kind with
                  | .lora => p.rxSingle
                  | .fsk => p.fskRxto s.rcfg.rxsyms))]
            ++ (if s.irqNest = 0#8 then [.out (.irqMask false)] else [])
            ++ [.out (.resp 0#64)])

/-- RSLEEP (R240, R241): while the flag is set it answers and does nothing else; otherwise one sleep frame, then the antenna
released, then TCXO off where it is wired, then the response, in this order and nothing else, and the flag is set. -/
def Obligations.RsleepElidedOrSleeps : Prop :=
  ∀ s : State, s.acceptance .plain = .accepted → s.quiet → s.busyClears →
    let p := Config.params
    (s.rsleep = true → exec .rsleep s = .next (s.emit (.resp 0#64)))
      ∧ (s.rsleep = false →
        ∃ t u, exec .rsleep s = .next t
          ∧ FramesOnly { s with
              rop := .idle, chipMode := .sleep, ant := .off, tcxo := if p.tcxoPin then false else s.tcxo } u
          ∧ t = { u with rsleep := true }
          ∧ Shows s t
              ([.frame [p.opc .sleep, p.coldFlag], .out (.pinAnt .off)]
                ++ (if p.tcxoPin then [.out (.pinTcxo false)] else []) ++ [.out (.resp 0#64)]))

/-- RRAND (R242): standby, interrupts cleared and none routed, antenna, continuous receive, the dwell, RAND_N bytes of the
random register, standby, antenna off, the response, in this order and nothing else. RAND is those bytes, most significant
first; they are CHIP's and free. That a quiet dwell ends at its first due tick is the model's choice (log entry 13). -/
def Obligations.RrandDrawsBytes : Prop :=
  ∀ s : State, s.acceptance .plain = .accepted → s.quiet → s.busyClears →
    let p := Config.params
    ∃ (t : State) (r : List Byte), exec .rrand s = .next t ∧ r.length = p.randN
      ∧ FramesOnly { s with
          rop := .idle, chipMode := .standby, ant := .off, xtime := dueTime (tickAdd s.tick p.randDwell) s.xtime
          rcfg := { s.rcfg with rand := ofBytesBE r } } t
      ∧ (∀ pre r' post, s.chipIn = pre ++ r' ++ post →
          pre.length = 2 + 3 + (3 + p.routeLen) + (1 + p.timeoutLen) + 4 → r'.length = p.randN → r = r')
      ∧ Shows s t
          [.frame [p.opc .standby, p.stdbyCfg], .frame [p.opc .clrirq, 0xFF#8, 0xFF#8],
            .frame (p.opc .irqparams :: irqRouteBytes p 0#16), .out (.pinAnt .rx),
            .frame (p.opc .rx :: timeoutBytes p p.rxNoTimeout),
            .frame (frameOut (p.opc .rreg) (addrBytes p.randAddr) true p.randN),
            .frame [p.opc .standby, p.stdbyCfg], .out (.pinAnt .off), .out (.resp 0#64)]

/-- RINIT (R220 to R222), in every accepted quiet state. With a reset line, where the busy line clears and CHIP answers the
expected bytes, it completes: the pulse, one read frame, CHIPMODE = STANDBY. Without one it completes whatever CHIP would
answer: no pin, no frame, RSLEEP = 0, CHIPMODE = UNKNOWN. Either way ROP = IDLE and one response; nothing else changes. -/
def Obligations.RinitChecksChip : Prop :=
  ∀ s : State, s.acceptance .plain = .accepted → s.quiet →
    let p := Config.params
    if p.hasReset then
      ∀ n, s.busyNow = some n → frameData (p.opc .rreg) (addrBytes p.chkAddr) true p.chkLen s = p.chkValue →
        ∃ t, exec .rinit s = .next t
          ∧ FramesOnly { s with rop := .idle, chipMode := .standby, rst := .float } t
          ∧ t.trace = s.trace ++ [.pinRst .low, .pinRst .float]
              ++ frameEvents n (frameOut (p.opc .rreg) (addrBytes p.chkAddr) true p.chkLen) ++ [.resp 0#64]
    else
      exec .rinit s = .next { s with
        rop := .idle, chipMode := .unknown, rsleep := false, trace := s.trace ++ [.resp 0#64] }

/-- A self-check mismatch is fatal (R220 line 5, R221, R273), on every legal configuration with a reset line:
HardFault(RESET_READBACK) after the frame has ended; CHIPMODE and ROP are not written and no response is emitted. The
configuration of this hardware is one of those, or has no reset line. -/
def Obligations.RinitMismatchFatal : Prop :=
  (∀ s : State, exec .rinit s = command .plain (rinitOp Config.params) s)
    ∧ ∀ (p : Params) (s : State) (n : Nat), p.ok = true → p.hasReset = true →
        s.acceptance .plain = .accepted → s.quiet → s.busyNow = some n →
        frameData (p.opc .rreg) (addrBytes p.chkAddr) true p.chkLen s ≠ p.chkValue →
        ∃ u, command .plain (rinitOp p) s = .next (u.hardFault .resetReadback)
          ∧ FramesOnly { s with rst := .float } u
          ∧ u.trace = s.trace ++ [.pinRst .low, .pinRst .float]
              ++ frameEvents n (frameOut (p.opc .rreg) (addrBytes p.chkAddr) true p.chkLen)

/-- RPROC's two fatal branches (R247 lines 1 and 5, R252): a completion with no operation armed raises UNREACHABLE before
any frame; a status with both or neither of done and timeout raises IRQ_INCONSISTENT right after the one status frame,
and nothing else is written. -/
def Obligations.RprocFatalBranches : Prop :=
  ∀ (s : State) (n : Nat), s.seqFree → s.quiet → s.busyNow = some n →
    let p := Config.params
    ((s.rop = .idle ∨ s.rop = .txcw) → exec .rproc s = .next (s.hardFault .unreachable))
      ∧ (s.rop ≠ .idle → s.rop ≠ .txcw →
          ((statusWord p s &&& (if s.rop = .tx then p.irqTxdone else p.irqRxdone) ≠ 0#16)
            ↔ (statusWord p s &&& p.irqTimeout ≠ 0#16)) →
          exec .rproc s = .next ((frameDone (p.opc .getirq) [] true 2 n s).hardFault .irqInconsistent))

/-- RPROC on transmit done (R247, R248, R250): TXEND is the captured timestamp minus the correction of the kind, wrapping;
TIMEDOUT is cleared, DATALEN and FRAME are unchanged, the operation ends and Complete(TX) hands control to HOST. -/
def Obligations.RprocTransmitDone : Prop :=
  ∀ (s : State) (n : Nat), s.seqFree → s.quiet → s.busyNow = some n → s.rop = .tx →
    let p := Config.params
    statusWord p s &&& p.irqTxdone ≠ 0#16 → statusWord p s &&& p.irqTimeout = 0#16 →
    let u := frameDone (p.opc .getirq) [] true 2 n s
    exec .rproc s = .next { u with
      rcfg := { s.rcfg with txend := s.irqTs - p.txdoneFixup s.rcfg.kind, timedout := false }
      chipMode := .standby
      ant := .off
      rop := .idle
      rlState := .dispatching
      trace := u.trace ++ [.pinAnt .off, .complete .tx] }

/-- RPROC on receive done (R247, R249, R250): signal quality, length and payload are read in three frames; FRAME[0..len-1]
is the payload and the rest is unchanged; RXEND and RXSTART are the corrected times; Complete(RX) follows. -/
def Obligations.RprocReceiveDone : Prop :=
  ∀ s : State, s.seqFree → s.quiet → s.busyClears → s.rop = .rxs ∨ s.rop = .rxc → StoreInv s →
    let p := Config.params
    statusWord p s &&& p.irqRxdone ≠ 0#16 → statusWord p s &&& p.irqTimeout = 0#16 →
    ∃ n1 n2 n3 n4 : Nat,
      let s1 := frameDone (p.opc .getirq) [] true 2 n1 s
      let qual := frameData (p.opc .pktstatus) [] true p.nPktStatus s1
      let s2 := frameDone (p.opc .pktstatus) [] true p.nPktStatus n2 s1
      let buf := frameData (p.opc .rxbufstatus) [] true 2 s2
      let len := buf.getD 0 0#8
      let s3 := frameDone (p.opc .rxbufstatus) [] true 2 n3 s2
      let d := frameData (p.opc .rbuf) [buf.getD 1 0#8] true len.toNat s3
      let s4 := frameDone (p.opc .rbuf) [buf.getD 1 0#8] true len.toNat n4 s3
      let rxend := s.irqTs - (match s.rcfg.kind with
        | .lora => p.rxdoneFixupLora s.rcfg.bw s.rcfg.sf
        | .fsk => p.rxdoneFixupFsk)
      s.busyNow = some n1 ∧ s1.busyNow = some n2 ∧ s2.busyNow = some n3 ∧ s3.busyNow = some n4
        ∧ ∃ t, exec .rproc s = .next t
          ∧ t.rcfg = { s.rcfg with
              rssi := p.rssiOf s.rcfg.kind qual
              snr := match s.rcfg.kind with | .lora => p.snrOf qual | .fsk => s.rcfg.snr
              datalen := len
              rxend := rxend
              rxstart := rxend - p.airtime s.rcfg.airKey len
              timedout := false }
          ∧ (∀ a, a < len.toNat → Memory.read t.frame a = d.getD a 0#8)
          ∧ (∀ a, len.toNat ≤ a → Memory.read t.frame a = Memory.read s.frame a)
          ∧ t = { s4 with
              rcfg := t.rcfg
              frame := t.frame
              chipMode := .standby
              ant := .off
              rop := .idle
              rlState := .dispatching
              trace := s4.trace ++ [.pinAnt .off, .complete .rx] }

/-- RPROC on the timeout interrupt (R227, R247, R250, R251): DATALEN is 0 and TIMEDOUT is 1; FRAME, the signal quality and
the timestamps are unchanged; one frame, and Complete of the operation's kind. -/
def Obligations.RprocTimedOut : Prop :=
  ∀ (s : State) (n : Nat), s.seqFree → s.quiet → s.busyNow = some n → s.rop ≠ .idle → s.rop ≠ .txcw →
    let p := Config.params
    statusWord p s &&& (if s.rop = .tx then p.irqTxdone else p.irqRxdone) = 0#16 →
    statusWord p s &&& p.irqTimeout ≠ 0#16 →
    let u := frameDone (p.opc .getirq) [] true 2 n s
    exec .rproc s = .next { u with
      rcfg := { s.rcfg with datalen := 0#8, timedout := true }
      chipMode := .standby
      ant := .off
      rop := .idle
      rlState := .dispatching
      trace := u.trace ++ [.pinAnt .off, .complete (if s.rop = .tx then .tx else .rx)] }

/-! ## HOST and the shared record -/

/-- HOST's writes (R40, R41, R43), at SEQ's turn with the port open: a write of any of the eighteen input fields, or of a byte
of FRAME, happens and nothing else does; FRAME has MAX_LEN bytes, and a write beyond them is the model's fault frameAddress
(log entry 31). That HOST writes only there is log entry 19. -/
def Obligations.HostWritesItsWindow : Prop :=
  ∀ (s : State) (rest : List HostAct), s.turns = [] ∨ (∃ ts, s.turns = .seq :: ts) → s.portOpen = true → StoreInv s →
    let u := { s with host := rest, turns := s.turns.tail }
    (∀ a v, a < MAX_LEN → s.host = .write (.frame a v) :: rest →
      ∃ t, step s = .next t ∧ Memory.read t.frame a = v ∧ (∀ b, b ≠ a → Memory.read t.frame b = Memory.read s.frame b)
        ∧ t = { u with frame := t.frame })
      ∧ (∀ a v, MAX_LEN ≤ a → s.host = .write (.frame a v) :: rest → step s = .fault .frameAddress)
      ∧ (∀ v, s.host = .write (.freq v) :: rest → step s = .next { u with rcfg := { s.rcfg with freq := v } })
      ∧ (∀ v, s.host = .write (.kind v) :: rest → step s = .next { u with rcfg := { s.rcfg with kind := v } })
      ∧ (∀ v, s.host = .write (.sf v) :: rest → step s = .next { u with rcfg := { s.rcfg with sf := v } })
      ∧ (∀ v, s.host = .write (.bw v) :: rest → step s = .next { u with rcfg := { s.rcfg with bw := v } })
      ∧ (∀ v, s.host = .write (.cr v) :: rest → step s = .next { u with rcfg := { s.rcfg with cr := v } })
      ∧ (∀ v, s.host = .write (.lro v) :: rest → step s = .next { u with rcfg := { s.rcfg with lro := v } })
      ∧ (∀ v, s.host = .write (.preamble v) :: rest → step s = .next { u with rcfg := { s.rcfg with preamble := v } })
      ∧ (∀ v, s.host = .write (.hdrmode v) :: rest → step s = .next { u with rcfg := { s.rcfg with hdrmode := v } })
      ∧ (∀ v, s.host = .write (.crcen v) :: rest → step s = .next { u with rcfg := { s.rcfg with crcen := v } })
      ∧ (∀ v, s.host = .write (.iqinv v) :: rest → step s = .next { u with rcfg := { s.rcfg with iqinv := v } })
      ∧ (∀ v, s.host = .write (.sync v) :: rest → step s = .next { u with rcfg := { s.rcfg with sync := v } })
      ∧ (∀ v, s.host = .write (.whiteSeed v) :: rest → step s = .next { u with rcfg := { s.rcfg with whiteSeed := v } })
      ∧ (∀ v, s.host = .write (.crcSeed v) :: rest → step s = .next { u with rcfg := { s.rcfg with crcSeed := v } })
      ∧ (∀ v, s.host = .write (.crcPoly v) :: rest → step s = .next { u with rcfg := { s.rcfg with crcPoly := v } })
      ∧ (∀ v, s.host = .write (.txpow v) :: rest → step s = .next { u with rcfg := { s.rcfg with txpow := v } })
      ∧ (∀ v, s.host = .write (.rxsyms v) :: rest → step s = .next { u with rcfg := { s.rcfg with rxsyms := v } })
      ∧ (∀ v, s.host = .write (.rxtime v) :: rest → step s = .next { u with rcfg := { s.rcfg with rxtime := v } })
      ∧ (∀ v, s.host = .write (.datalen v) :: rest → step s = .next { u with rcfg := { s.rcfg with datalen := v } })

/-- The block's side of the shared record (R40, R61), whatever the other agents do meanwhile: no operation writes an
input field of RCFG other than DATALEN; only RPROC writes FRAME, DATALEN and the results of a completion; only RRAND
writes RAND. -/
def Obligations.SharedRecordOwnership : Prop :=
  ∀ (i : Instr) (s t : State), exec i s = .next t →
    (t.rcfg.freq = s.rcfg.freq ∧ t.rcfg.kind = s.rcfg.kind ∧ t.rcfg.sf = s.rcfg.sf ∧ t.rcfg.bw = s.rcfg.bw
      ∧ t.rcfg.cr = s.rcfg.cr ∧ t.rcfg.lro = s.rcfg.lro ∧ t.rcfg.preamble = s.rcfg.preamble
      ∧ t.rcfg.hdrmode = s.rcfg.hdrmode ∧ t.rcfg.crcen = s.rcfg.crcen ∧ t.rcfg.iqinv = s.rcfg.iqinv
      ∧ t.rcfg.sync = s.rcfg.sync ∧ t.rcfg.whiteSeed = s.rcfg.whiteSeed ∧ t.rcfg.crcSeed = s.rcfg.crcSeed
      ∧ t.rcfg.crcPoly = s.rcfg.crcPoly ∧ t.rcfg.txpow = s.rcfg.txpow ∧ t.rcfg.rxsyms = s.rcfg.rxsyms
      ∧ t.rcfg.rxtime = s.rcfg.rxtime)
      ∧ (i ≠ .rproc → t.frame = s.frame ∧ t.rcfg = { s.rcfg with rand := t.rcfg.rand })
      ∧ (i ≠ .rrand → t.rcfg.rand = s.rcfg.rand)

/-! ## Invariants that every step keeps -/

/-- Every step keeps the queue free of duplicates and EXACT_CNT equal to the count of exact entries (R28, R29, R30). -/
def Obligations.StepKeepsScheduler : Prop :=
  ∀ s t : State, SchedulerInv s → StoreInv s → step s = .next t → SchedulerInv t

/-- Every step keeps FRAME and the job store in canonical form, FRAME within its 255 bytes (R43, R64). -/
def Obligations.StepKeepsStores : Prop :=
  ∀ s t : State, StoreInv s → step s = .next t → StoreInv t

/-- Every step keeps: RSLEEP = 1 implies ROP = IDLE and CHIPMODE = SLEEP (R215). -/
def Obligations.StepKeepsSleepFlag : Prop :=
  ∀ s t : State, RadioInv s → step s = .next t → RadioInv t

/-- Every step keeps FAULT and FAULT_CODE in agreement, and chip-select released unless a fault or a hang is there
(R44, R194, R266, R273). -/
def Obligations.StepKeepsFaultCode : Prop :=
  ∀ s t : State, FaultInv s → step s = .next t → FaultInv t

/-- Every step keeps the control state consistent (R33, R175 g, R177, R268, R283): no takeable interrupt is left
waiting, a sleep is suppressed, the watchdog is armed exactly while HOST's callback runs, and RUNLOOP does not rest
between steps. -/
def Obligations.StepKeepsControl : Prop :=
  ∀ s t : State, ControlInv s → step s = .next t → ControlInv t

/-- The invariants hold at reset, with the values R58 gives. -/
def Obligations.ResetMeetsInvariants : Prop :=
  SchedulerInv State.reset ∧ StoreInv State.reset ∧ RadioInv State.reset ∧ FaultInv State.reset
    ∧ ControlInv State.reset
end

