-- ==== Sys2Proof/Laws/Flags.lean ====
section
/-!
SUPPORT. The comparison engine in integers: what sdiff, tickAdd and the translations are, said once.
-/

namespace Sys2Proof.Machine

theorem tick_lt (a : Tick) : a.toNat < 4294967296 := a.isLt

theorem xtime_lt (x : XTime) : x.toNat < 18446744073709551616 := x.isLt

/-- sdiff as a balanced remainder (R118). -/
theorem sdiff_bmod (a b : Tick) : sdiff a b = ((a.toNat : Int) - b.toNat).bmod 4294967296 := by
  unfold sdiff
  rw [BitVec.toInt_sub]
  simp only [BitVec.toInt_eq_toNat_bmod, Int.bmod_sub_bmod, Int.sub_bmod_bmod]
  norm_num

/-- sdiff by cases on which value is the larger number (R118). -/
theorem sdiff_cases (a b : Tick) :
    (sdiff a b = (a.toNat : Int) - b.toNat ∧ -2147483648 ≤ (a.toNat : Int) - b.toNat
        ∧ (a.toNat : Int) - b.toNat < 2147483648)
      ∨ (sdiff a b = (a.toNat : Int) - b.toNat + 4294967296 ∧ (a.toNat : Int) - b.toNat < -2147483648)
      ∨ (sdiff a b = (a.toNat : Int) - b.toNat - 4294967296 ∧ 2147483648 ≤ (a.toNat : Int) - b.toNat) := by
  have ha := tick_lt a
  have hb := tick_lt b
  rw [sdiff_bmod]
  unfold Int.bmod
  norm_num
  omega

theorem sdiff_self (a : Tick) : sdiff a a = 0 := by
  simp [sdiff]

theorem due_self (a : Tick) : due a a = true := by
  simp [due, sdiff_self]

theorem later_self (a : Tick) : later a a = false := by
  simp [later, sdiff_self]

theorem notlater_eq_not_later (a b : Tick) : notlater a b = !later a b := by
  by_cases h : sdiff a b ≤ 0
  · simp [notlater, later, h]
  · simp [notlater, later, h, Int.not_le.mp h]

theorem tickAdd_toNat (a : Tick) (k : Nat) : (tickAdd a k).toNat = (a.toNat + k) % 4294967296 := by
  unfold tickAdd
  rw [BitVec.toNat_add, BitVec.toNat_ofNat, Nat.add_mod_mod]
  rfl

theorem xt2tick_toNat (x : XTime) : (xt2tick x).toNat = x.toNat % 4294967296 := by
  unfold xt2tick
  rw [BitVec.toNat_setWidth]
  rfl

/-- Inside one window the difference is the difference of the offsets (R123). -/
theorem sdiff_window (base : Tick) {o o' : Nat} (h : o ≤ SAFE_SPAN) (h' : o' ≤ SAFE_SPAN) :
    sdiff (tickAdd base o) (tickAdd base o') = (o : Int) - o' := by
  have hb := tick_lt base
  have h1 : o ≤ 2147483647 := h
  have h2 : o' ≤ 2147483647 := h'
  have e1 := tickAdd_toNat base o
  have e2 := tickAdd_toNat base o'
  rcases sdiff_cases (tickAdd base o) (tickAdd base o') with h | h | h <;> omega

/-- A normalised deadline that is not the sample lies ahead of it (R138). -/
theorem normalise_cases (now dl : Tick) (fl : FlagSet) :
    normalise now dl fl = (now, flSetImmed fl) ∨ (normalise now dl fl = (dl, fl) ∧ sdiff dl now > 0 ∧ flImmed fl = false) := by
  unfold normalise
  by_cases h : flImmed fl = true ∨ due dl now = true
  · exact Or.inl (by rw [if_pos]; simpa using h)
  · right
    rw [if_neg (by simpa using h)]
    simp only [due, decide_eq_true_eq, not_or] at h
    exact ⟨rfl, by omega, by simpa using h.1⟩

@[simp] theorem flApprox_setImmed (fl : FlagSet) : flApprox (flSetImmed fl) = flApprox fl := by
  revert fl; decide

@[simp] theorem flIrqOff_setImmed (fl : FlagSet) : flIrqOff (flSetImmed fl) = flIrqOff fl := by
  revert fl; decide

@[simp] theorem flImmed_setImmed (fl : FlagSet) : flImmed (flSetImmed fl) = true := by
  revert fl; decide

/-- Normalisation keeps APPROX (R136 lines 5 and 9). -/
@[simp] theorem flApprox_normalise (now dl : Tick) (fl : FlagSet) : flApprox (normalise now dl fl).2 = flApprox fl := by
  rcases normalise_cases now dl fl with h | ⟨h, -⟩ <;> simp [h]

end Sys2Proof.Machine
end

