-- ==== Sys2Proof/Laws/Op.lean ====
section
/-!
SUPPORT. How operations compose: one equation per way a bind can go, the lines of an operation as equations, and two ways
to speak of all an operation can do, `Op.Rel` (what every outcome keeps) and `Op.Spec` (before, after, and after a stop).
-/

namespace Sys2Proof.Machine

theorem bind_ok {α β : Type} {m : Op α} {f : α → Op β} {s t : State} {a : α} (h : m s = .ok a t) :
    (m >>= f) s = f a t := by
  show EStateM.bind m f s = f a t
  simp only [EStateM.bind, h]

theorem bind_error {α β : Type} {m : Op α} {f : α → Op β} {s t : State} {e : Stop} (h : m s = .error e t) :
    (m >>= f) s = .error e t := by
  show EStateM.bind m f s = .error e t
  simp only [EStateM.bind, h]

theorem bind_run {α β : Type} (m : Op α) (f : α → Op β) (s : State) :
    (m >>= f) s = match m s with
      | .ok a t => f a t
      | .error e t => .error e t := by
  show EStateM.bind m f s = _
  cases h : m s <;> simp only [EStateM.bind, h]

@[simp] theorem pure_run {α : Type} (a : α) (s : State) : (pure a : Op α) s = .ok a s := rfl
@[simp] theorem upd_run (f : State → State) (s : State) : upd f s = .ok () (f s) := rfl
@[simp] theorem rd_run {α : Type} (f : State → α) (s : State) : rd f s = .ok (f s) s := rfl
@[simp] theorem emit_run (e : Event) (s : State) : emit e s = .ok () (s.emit e) := rfl
@[simp] theorem readTick_run (s : State) : readTick s = .ok s.tick s := rfl
@[simp] theorem raise_run {α : Type} (c : FaultCode) (s : State) :
    (raise c : Op α) s = .error .fatal (s.hardFault c) := rfl

@[simp] theorem upd_bind {β : Type} (f : State → State) (g : Unit → Op β) (s : State) :
    (upd f >>= g) s = g () (f s) := rfl
@[simp] theorem rd_bind {α β : Type} (f : State → α) (g : α → Op β) (s : State) : (rd f >>= g) s = g (f s) s := rfl
@[simp] theorem emit_bind {β : Type} (e : Event) (g : Unit → Op β) (s : State) :
    (emit e >>= g) s = g () (s.emit e) := rfl
@[simp] theorem readTick_bind {β : Type} (g : Tick → Op β) (s : State) : (readTick >>= g) s = g s.tick s := rfl
@[simp] theorem pure_bind_run {α β : Type} (a : α) (g : α → Op β) (s : State) : ((pure a : Op α) >>= g) s = g a s := rfl
@[simp] theorem raise_bind {α β : Type} (c : FaultCode) (g : α → Op β) (s : State) :
    ((raise c : Op α) >>= g) s = .error .fatal (s.hardFault c) := rfl
@[simp] theorem bind_assoc_run {α β γ : Type} (m : Op α) (f : α → Op β) (g : β → Op γ) (s : State) :
    ((m >>= f) >>= g) s = (m >>= fun a => f a >>= g) s := by
  simp only [bind_run]
  cases m s <;> rfl

/-- With nothing scripted an interaction point does nothing. -/
theorem tau_quiet {s : State} (h : s.quiet) : tau s = .ok () s := by
  simp only [tau, h]

theorem tau_bind_quiet {β : Type} {g : Unit → Op β} {s : State} (h : s.quiet) : (tau >>= g) s = g () s :=
  bind_ok (tau_quiet h)

theorem runOp_ok {α : Type} {m : Op α} {s t : State} {a : α} (h : m s = .ok a t) : runOp m s = t := by
  simp only [runOp, h]

theorem runOp_error {α : Type} {m : Op α} {s t : State} {e : Stop} (h : m s = .error e t) : runOp m s = t := by
  simp only [runOp, h]

/-! ## What every outcome keeps -/

/-- However the operation ends, its state is R-related to the one it began in. -/
def Op.Rel {α : Type} (R : State → State → Prop) (m : Op α) : Prop := ∀ s, R s (runOp m s)

theorem Op.rel_pure {α : Type} {R : State → State → Prop} (hr : ∀ s, R s s) (a : α) : Op.Rel R (pure a : Op α) :=
  fun s => hr s

theorem Op.rel_upd {R : State → State → Prop} {f : State → State} (h : ∀ s, R s (f s)) : Op.Rel R (upd f) :=
  fun s => h s

theorem Op.rel_rd {α : Type} {R : State → State → Prop} (hr : ∀ s, R s s) (f : State → α) : Op.Rel R (rd f) :=
  fun s => hr s

theorem Op.rel_raise {α : Type} {R : State → State → Prop} {c : FaultCode} (h : ∀ s, R s (s.hardFault c)) :
    Op.Rel R (raise c : Op α) :=
  fun s => h s

theorem Op.rel_bind {α β : Type} {R : State → State → Prop} (ht : ∀ a b c, R a b → R b c → R a c)
    {m : Op α} {f : α → Op β} (hm : Op.Rel R m) (hf : ∀ a, Op.Rel R (f a)) : Op.Rel R (m >>= f) := by
  intro s
  have h1 := hm s
  cases h : m s with
  | ok a t =>
    rw [runOp_ok h] at h1
    have h2 := hf a t
    have : runOp (m >>= f) s = runOp (f a) t := by simp only [runOp, bind_ok h]
    rw [this]
    exact ht _ _ _ h1 h2
  | error e t =>
    rw [runOp_error h] at h1
    have : runOp (m >>= f) s = t := by simp only [runOp, bind_error h]
    rw [this]
    exact h1

theorem Op.rel_ite {α : Type} {R : State → State → Prop} {c : Prop} [Decidable c] {a b : Op α}
    (ha : Op.Rel R a) (hb : Op.Rel R b) : Op.Rel R (if c then a else b) := by
  split
  · exact ha
  · exact hb

/-! ## Before and after -/

/-- From P, the operation ends normally in Q, or stops in E. -/
def Op.Spec {α : Type} (P : State → Prop) (m : Op α) (Q : α → State → Prop) (E : State → Prop) : Prop :=
  ∀ s, P s → match m s with
    | .ok a t => Q a t
    | .error _ t => E t

theorem Op.spec_bind {α β : Type} {P : State → Prop} {m : Op α} {f : α → Op β} {Q : α → State → Prop}
    {Q' : β → State → Prop} {E : State → Prop} (hm : Op.Spec P m Q E) (hf : ∀ a, Op.Spec (Q a) (f a) Q' E) :
    Op.Spec P (m >>= f) Q' E := by
  intro s hs
  have h1 := hm s hs
  rw [bind_run]
  cases h : m s with
  | ok a t => rw [h] at h1; exact hf a t h1
  | error e t => rw [h] at h1; exact h1

theorem Op.spec_pure {α : Type} {P : State → Prop} {a : α} {Q : α → State → Prop} {E : State → Prop}
    (h : ∀ s, P s → Q a s) : Op.Spec P (pure a : Op α) Q E :=
  fun s hs => h s hs

theorem Op.spec_upd {P : State → Prop} {f : State → State} {Q : Unit → State → Prop} {E : State → Prop}
    (h : ∀ s, P s → Q () (f s)) : Op.Spec P (upd f) Q E :=
  fun s hs => h s hs

theorem Op.spec_rd {α : Type} {P : State → Prop} {f : State → α} {Q : α → State → Prop} {E : State → Prop}
    (h : ∀ s, P s → Q (f s) s) : Op.Spec P (rd f) Q E :=
  fun s hs => h s hs

theorem Op.spec_weaken {α : Type} {P P' : State → Prop} {m : Op α} {Q Q' : α → State → Prop} {E E' : State → Prop}
    (h : Op.Spec P m Q E) (hp : ∀ s, P' s → P s) (hq : ∀ a s, Q a s → Q' a s) (he : ∀ s, E s → E' s) :
    Op.Spec P' m Q' E' := by
  intro s hs
  have h1 := h s (hp s hs)
  cases hm : m s with
  | ok a t => rw [hm] at h1; exact hq a t h1
  | error e t => rw [hm] at h1; exact he t h1

theorem Op.spec_run {α : Type} {P : State → Prop} {m : Op α} {T : State → Prop}
    (h : Op.Spec P m (fun _ => T) T) {s : State} (hs : P s) : T (runOp m s) := by
  have h1 := h s hs
  cases hm : m s with
  | ok a t => rw [hm] at h1; rw [runOp_ok hm]; exact h1
  | error e t => rw [hm] at h1; rw [runOp_error hm]; exact h1

end Sys2Proof.Machine
end

