-- ==== Sys2Proof/Laws/State.lean ====
section
/-!
SUPPORT. What each update of the state leaves alone, one lemma a field, so that no later proof unfolds a record update.
-/

namespace Sys2Proof.Machine

/-! ## The fatal entry writes FAULT, FAULT_CODE and the trace (R272) -/

@[simp] theorem State.hardFault_xtime (s : State) (c : FaultCode) :
    (s.hardFault c).xtime = s.xtime := by
  unfold State.hardFault; split <;> rfl
@[simp] theorem State.hardFault_jobs (s : State) (c : FaultCode) :
    (s.hardFault c).jobs = s.jobs := by
  unfold State.hardFault; split <;> rfl
@[simp] theorem State.hardFault_q (s : State) (c : FaultCode) :
    (s.hardFault c).q = s.q := by
  unfold State.hardFault; split <;> rfl
@[simp] theorem State.hardFault_exactCnt (s : State) (c : FaultCode) :
    (s.hardFault c).exactCnt = s.exactCnt := by
  unfold State.hardFault; split <;> rfl
@[simp] theorem State.hardFault_rlState (s : State) (c : FaultCode) :
    (s.hardFault c).rlState = s.rlState := by
  unfold State.hardFault; split <;> rfl
@[simp] theorem State.hardFault_rlLoop (s : State) (c : FaultCode) :
    (s.hardFault c).rlLoop = s.rlLoop := by
  unfold State.hardFault; split <;> rfl
@[simp] theorem State.hardFault_curJob (s : State) (c : FaultCode) :
    (s.hardFault c).curJob = s.curJob := by
  unfold State.hardFault; split <;> rfl
@[simp] theorem State.hardFault_wdArmed (s : State) (c : FaultCode) :
    (s.hardFault c).wdArmed = s.wdArmed := by
  unfold State.hardFault; split <;> rfl
@[simp] theorem State.hardFault_lateCnt (s : State) (c : FaultCode) :
    (s.hardFault c).lateCnt = s.lateCnt := by
  unfold State.hardFault; split <;> rfl
@[simp] theorem State.hardFault_irqNest (s : State) (c : FaultCode) :
    (s.hardFault c).irqNest = s.irqNest := by
  unfold State.hardFault; split <;> rfl
@[simp] theorem State.hardFault_irqPend (s : State) (c : FaultCode) :
    (s.hardFault c).irqPend = s.irqPend := by
  unfold State.hardFault; split <;> rfl
@[simp] theorem State.hardFault_irqTs (s : State) (c : FaultCode) :
    (s.hardFault c).irqTs = s.irqTs := by
  unfold State.hardFault; split <;> rfl
@[simp] theorem State.hardFault_rsleep (s : State) (c : FaultCode) :
    (s.hardFault c).rsleep = s.rsleep := by
  unfold State.hardFault; split <;> rfl
@[simp] theorem State.hardFault_rop (s : State) (c : FaultCode) :
    (s.hardFault c).rop = s.rop := by
  unfold State.hardFault; split <;> rfl
@[simp] theorem State.hardFault_chipMode (s : State) (c : FaultCode) :
    (s.hardFault c).chipMode = s.chipMode := by
  unfold State.hardFault; split <;> rfl
@[simp] theorem State.hardFault_rcfg (s : State) (c : FaultCode) :
    (s.hardFault c).rcfg = s.rcfg := by
  unfold State.hardFault; split <;> rfl
@[simp] theorem State.hardFault_frame (s : State) (c : FaultCode) :
    (s.hardFault c).frame = s.frame := by
  unfold State.hardFault; split <;> rfl
@[simp] theorem State.hardFault_cs (s : State) (c : FaultCode) :
    (s.hardFault c).cs = s.cs := by
  unfold State.hardFault; split <;> rfl
@[simp] theorem State.hardFault_rst (s : State) (c : FaultCode) :
    (s.hardFault c).rst = s.rst := by
  unfold State.hardFault; split <;> rfl
@[simp] theorem State.hardFault_ant (s : State) (c : FaultCode) :
    (s.hardFault c).ant = s.ant := by
  unfold State.hardFault; split <;> rfl
@[simp] theorem State.hardFault_tcxo (s : State) (c : FaultCode) :
    (s.hardFault c).tcxo = s.tcxo := by
  unfold State.hardFault; split <;> rfl
@[simp] theorem State.hardFault_hung (s : State) (c : FaultCode) :
    (s.hardFault c).hung = s.hung := by
  unfold State.hardFault; split <;> rfl
@[simp] theorem State.hardFault_host (s : State) (c : FaultCode) :
    (s.hardFault c).host = s.host := by
  unfold State.hardFault; split <;> rfl
@[simp] theorem State.hardFault_turns (s : State) (c : FaultCode) :
    (s.hardFault c).turns = s.turns := by
  unfold State.hardFault; split <;> rfl
@[simp] theorem State.hardFault_moments (s : State) (c : FaultCode) :
    (s.hardFault c).moments = s.moments := by
  unfold State.hardFault; split <;> rfl
@[simp] theorem State.hardFault_busyIn (s : State) (c : FaultCode) :
    (s.hardFault c).busyIn = s.busyIn := by
  unfold State.hardFault; split <;> rfl
@[simp] theorem State.hardFault_chipIn (s : State) (c : FaultCode) :
    (s.hardFault c).chipIn = s.chipIn := by
  unfold State.hardFault; split <;> rfl
@[simp] theorem State.hardFault_draws (s : State) (c : FaultCode) :
    (s.hardFault c).draws = s.draws := by
  unfold State.hardFault; split <;> rfl
@[simp] theorem State.hardFault_busData (s : State) (c : FaultCode) :
    (s.hardFault c).busData = s.busData := by
  unfold State.hardFault; split <;> rfl

@[simp] theorem State.hardFault_fault (s : State) (c : FaultCode) : (s.hardFault c).fault = true := by
  unfold State.hardFault
  split
  · assumption
  · rfl

theorem State.hardFault_of_fault {s : State} (c : FaultCode) (h : s.fault = true) : s.hardFault c = s := by
  simp [State.hardFault, h]

/-! ## unlink writes Q and EXACT_CNT (R137) -/

@[simp] theorem State.unlink_xtime (s : State) (j : JobId) :
    (s.unlink j).xtime = s.xtime := by
  unfold State.unlink; split <;> rfl
@[simp] theorem State.unlink_jobs (s : State) (j : JobId) :
    (s.unlink j).jobs = s.jobs := by
  unfold State.unlink; split <;> rfl
@[simp] theorem State.unlink_rlState (s : State) (j : JobId) :
    (s.unlink j).rlState = s.rlState := by
  unfold State.unlink; split <;> rfl
@[simp] theorem State.unlink_rlLoop (s : State) (j : JobId) :
    (s.unlink j).rlLoop = s.rlLoop := by
  unfold State.unlink; split <;> rfl
@[simp] theorem State.unlink_curJob (s : State) (j : JobId) :
    (s.unlink j).curJob = s.curJob := by
  unfold State.unlink; split <;> rfl
@[simp] theorem State.unlink_wdArmed (s : State) (j : JobId) :
    (s.unlink j).wdArmed = s.wdArmed := by
  unfold State.unlink; split <;> rfl
@[simp] theorem State.unlink_lateCnt (s : State) (j : JobId) :
    (s.unlink j).lateCnt = s.lateCnt := by
  unfold State.unlink; split <;> rfl
@[simp] theorem State.unlink_irqNest (s : State) (j : JobId) :
    (s.unlink j).irqNest = s.irqNest := by
  unfold State.unlink; split <;> rfl
@[simp] theorem State.unlink_irqPend (s : State) (j : JobId) :
    (s.unlink j).irqPend = s.irqPend := by
  unfold State.unlink; split <;> rfl
@[simp] theorem State.unlink_irqTs (s : State) (j : JobId) :
    (s.unlink j).irqTs = s.irqTs := by
  unfold State.unlink; split <;> rfl
@[simp] theorem State.unlink_rsleep (s : State) (j : JobId) :
    (s.unlink j).rsleep = s.rsleep := by
  unfold State.unlink; split <;> rfl
@[simp] theorem State.unlink_rop (s : State) (j : JobId) :
    (s.unlink j).rop = s.rop := by
  unfold State.unlink; split <;> rfl
@[simp] theorem State.unlink_chipMode (s : State) (j : JobId) :
    (s.unlink j).chipMode = s.chipMode := by
  unfold State.unlink; split <;> rfl
@[simp] theorem State.unlink_rcfg (s : State) (j : JobId) :
    (s.unlink j).rcfg = s.rcfg := by
  unfold State.unlink; split <;> rfl
@[simp] theorem State.unlink_frame (s : State) (j : JobId) :
    (s.unlink j).frame = s.frame := by
  unfold State.unlink; split <;> rfl
@[simp] theorem State.unlink_fault (s : State) (j : JobId) :
    (s.unlink j).fault = s.fault := by
  unfold State.unlink; split <;> rfl
@[simp] theorem State.unlink_faultCode (s : State) (j : JobId) :
    (s.unlink j).faultCode = s.faultCode := by
  unfold State.unlink; split <;> rfl
@[simp] theorem State.unlink_cs (s : State) (j : JobId) :
    (s.unlink j).cs = s.cs := by
  unfold State.unlink; split <;> rfl
@[simp] theorem State.unlink_rst (s : State) (j : JobId) :
    (s.unlink j).rst = s.rst := by
  unfold State.unlink; split <;> rfl
@[simp] theorem State.unlink_ant (s : State) (j : JobId) :
    (s.unlink j).ant = s.ant := by
  unfold State.unlink; split <;> rfl
@[simp] theorem State.unlink_tcxo (s : State) (j : JobId) :
    (s.unlink j).tcxo = s.tcxo := by
  unfold State.unlink; split <;> rfl
@[simp] theorem State.unlink_hung (s : State) (j : JobId) :
    (s.unlink j).hung = s.hung := by
  unfold State.unlink; split <;> rfl
@[simp] theorem State.unlink_trace (s : State) (j : JobId) :
    (s.unlink j).trace = s.trace := by
  unfold State.unlink; split <;> rfl
@[simp] theorem State.unlink_host (s : State) (j : JobId) :
    (s.unlink j).host = s.host := by
  unfold State.unlink; split <;> rfl
@[simp] theorem State.unlink_turns (s : State) (j : JobId) :
    (s.unlink j).turns = s.turns := by
  unfold State.unlink; split <;> rfl
@[simp] theorem State.unlink_moments (s : State) (j : JobId) :
    (s.unlink j).moments = s.moments := by
  unfold State.unlink; split <;> rfl
@[simp] theorem State.unlink_busyIn (s : State) (j : JobId) :
    (s.unlink j).busyIn = s.busyIn := by
  unfold State.unlink; split <;> rfl
@[simp] theorem State.unlink_chipIn (s : State) (j : JobId) :
    (s.unlink j).chipIn = s.chipIn := by
  unfold State.unlink; split <;> rfl
@[simp] theorem State.unlink_draws (s : State) (j : JobId) :
    (s.unlink j).draws = s.draws := by
  unfold State.unlink; split <;> rfl
@[simp] theorem State.unlink_busData (s : State) (j : JobId) :
    (s.unlink j).busData = s.busData := by
  unfold State.unlink; split <;> rfl

/-! ## Line 6 of SCHED writes one job record (R136) -/

@[simp] theorem State.writeJob_xtime (s : State) (j : JobId) (dl : Tick) (cb : CbId) (fl : FlagSet) :
    (s.writeJob j dl cb fl).xtime = s.xtime := rfl
@[simp] theorem State.writeJob_q (s : State) (j : JobId) (dl : Tick) (cb : CbId) (fl : FlagSet) :
    (s.writeJob j dl cb fl).q = s.q := rfl
@[simp] theorem State.writeJob_exactCnt (s : State) (j : JobId) (dl : Tick) (cb : CbId) (fl : FlagSet) :
    (s.writeJob j dl cb fl).exactCnt = s.exactCnt := rfl
@[simp] theorem State.writeJob_rlState (s : State) (j : JobId) (dl : Tick) (cb : CbId) (fl : FlagSet) :
    (s.writeJob j dl cb fl).rlState = s.rlState := rfl
@[simp] theorem State.writeJob_rlLoop (s : State) (j : JobId) (dl : Tick) (cb : CbId) (fl : FlagSet) :
    (s.writeJob j dl cb fl).rlLoop = s.rlLoop := rfl
@[simp] theorem State.writeJob_curJob (s : State) (j : JobId) (dl : Tick) (cb : CbId) (fl : FlagSet) :
    (s.writeJob j dl cb fl).curJob = s.curJob := rfl
@[simp] theorem State.writeJob_wdArmed (s : State) (j : JobId) (dl : Tick) (cb : CbId) (fl : FlagSet) :
    (s.writeJob j dl cb fl).wdArmed = s.wdArmed := rfl
@[simp] theorem State.writeJob_lateCnt (s : State) (j : JobId) (dl : Tick) (cb : CbId) (fl : FlagSet) :
    (s.writeJob j dl cb fl).lateCnt = s.lateCnt := rfl
@[simp] theorem State.writeJob_irqNest (s : State) (j : JobId) (dl : Tick) (cb : CbId) (fl : FlagSet) :
    (s.writeJob j dl cb fl).irqNest = s.irqNest := rfl
@[simp] theorem State.writeJob_irqPend (s : State) (j : JobId) (dl : Tick) (cb : CbId) (fl : FlagSet) :
    (s.writeJob j dl cb fl).irqPend = s.irqPend := rfl
@[simp] theorem State.writeJob_irqTs (s : State) (j : JobId) (dl : Tick) (cb : CbId) (fl : FlagSet) :
    (s.writeJob j dl cb fl).irqTs = s.irqTs := rfl
@[simp] theorem State.writeJob_rsleep (s : State) (j : JobId) (dl : Tick) (cb : CbId) (fl : FlagSet) :
    (s.writeJob j dl cb fl).rsleep = s.rsleep := rfl
@[simp] theorem State.writeJob_rop (s : State) (j : JobId) (dl : Tick) (cb : CbId) (fl : FlagSet) :
    (s.writeJob j dl cb fl).rop = s.rop := rfl
@[simp] theorem State.writeJob_chipMode (s : State) (j : JobId) (dl : Tick) (cb : CbId) (fl : FlagSet) :
    (s.writeJob j dl cb fl).chipMode = s.chipMode := rfl
@[simp] theorem State.writeJob_rcfg (s : State) (j : JobId) (dl : Tick) (cb : CbId) (fl : FlagSet) :
    (s.writeJob j dl cb fl).rcfg = s.rcfg := rfl
@[simp] theorem State.writeJob_frame (s : State) (j : JobId) (dl : Tick) (cb : CbId) (fl : FlagSet) :
    (s.writeJob j dl cb fl).frame = s.frame := rfl
@[simp] theorem State.writeJob_fault (s : State) (j : JobId) (dl : Tick) (cb : CbId) (fl : FlagSet) :
    (s.writeJob j dl cb fl).fault = s.fault := rfl
@[simp] theorem State.writeJob_faultCode (s : State) (j : JobId) (dl : Tick) (cb : CbId) (fl : FlagSet) :
    (s.writeJob j dl cb fl).faultCode = s.faultCode := rfl
@[simp] theorem State.writeJob_cs (s : State) (j : JobId) (dl : Tick) (cb : CbId) (fl : FlagSet) :
    (s.writeJob j dl cb fl).cs = s.cs := rfl
@[simp] theorem State.writeJob_rst (s : State) (j : JobId) (dl : Tick) (cb : CbId) (fl : FlagSet) :
    (s.writeJob j dl cb fl).rst = s.rst := rfl
@[simp] theorem State.writeJob_ant (s : State) (j : JobId) (dl : Tick) (cb : CbId) (fl : FlagSet) :
    (s.writeJob j dl cb fl).ant = s.ant := rfl
@[simp] theorem State.writeJob_tcxo (s : State) (j : JobId) (dl : Tick) (cb : CbId) (fl : FlagSet) :
    (s.writeJob j dl cb fl).tcxo = s.tcxo := rfl
@[simp] theorem State.writeJob_hung (s : State) (j : JobId) (dl : Tick) (cb : CbId) (fl : FlagSet) :
    (s.writeJob j dl cb fl).hung = s.hung := rfl
@[simp] theorem State.writeJob_trace (s : State) (j : JobId) (dl : Tick) (cb : CbId) (fl : FlagSet) :
    (s.writeJob j dl cb fl).trace = s.trace := rfl
@[simp] theorem State.writeJob_host (s : State) (j : JobId) (dl : Tick) (cb : CbId) (fl : FlagSet) :
    (s.writeJob j dl cb fl).host = s.host := rfl
@[simp] theorem State.writeJob_turns (s : State) (j : JobId) (dl : Tick) (cb : CbId) (fl : FlagSet) :
    (s.writeJob j dl cb fl).turns = s.turns := rfl
@[simp] theorem State.writeJob_moments (s : State) (j : JobId) (dl : Tick) (cb : CbId) (fl : FlagSet) :
    (s.writeJob j dl cb fl).moments = s.moments := rfl
@[simp] theorem State.writeJob_busyIn (s : State) (j : JobId) (dl : Tick) (cb : CbId) (fl : FlagSet) :
    (s.writeJob j dl cb fl).busyIn = s.busyIn := rfl
@[simp] theorem State.writeJob_chipIn (s : State) (j : JobId) (dl : Tick) (cb : CbId) (fl : FlagSet) :
    (s.writeJob j dl cb fl).chipIn = s.chipIn := rfl
@[simp] theorem State.writeJob_draws (s : State) (j : JobId) (dl : Tick) (cb : CbId) (fl : FlagSet) :
    (s.writeJob j dl cb fl).draws = s.draws := rfl
@[simp] theorem State.writeJob_busData (s : State) (j : JobId) (dl : Tick) (cb : CbId) (fl : FlagSet) :
    (s.writeJob j dl cb fl).busData = s.busData := rfl

/-! ## Line 3 of SCHEDX writes one job record (R150) -/

@[simp] theorem State.writeExt_xtime (s : State) (j : JobId) (xdl : XTime) (xcb : CbId) :
    (s.writeExt j xdl xcb).xtime = s.xtime := rfl
@[simp] theorem State.writeExt_q (s : State) (j : JobId) (xdl : XTime) (xcb : CbId) :
    (s.writeExt j xdl xcb).q = s.q := rfl
@[simp] theorem State.writeExt_exactCnt (s : State) (j : JobId) (xdl : XTime) (xcb : CbId) :
    (s.writeExt j xdl xcb).exactCnt = s.exactCnt := rfl
@[simp] theorem State.writeExt_rlState (s : State) (j : JobId) (xdl : XTime) (xcb : CbId) :
    (s.writeExt j xdl xcb).rlState = s.rlState := rfl
@[simp] theorem State.writeExt_rlLoop (s : State) (j : JobId) (xdl : XTime) (xcb : CbId) :
    (s.writeExt j xdl xcb).rlLoop = s.rlLoop := rfl
@[simp] theorem State.writeExt_curJob (s : State) (j : JobId) (xdl : XTime) (xcb : CbId) :
    (s.writeExt j xdl xcb).curJob = s.curJob := rfl
@[simp] theorem State.writeExt_wdArmed (s : State) (j : JobId) (xdl : XTime) (xcb : CbId) :
    (s.writeExt j xdl xcb).wdArmed = s.wdArmed := rfl
@[simp] theorem State.writeExt_lateCnt (s : State) (j : JobId) (xdl : XTime) (xcb : CbId) :
    (s.writeExt j xdl xcb).lateCnt = s.lateCnt := rfl
@[simp] theorem State.writeExt_irqNest (s : State) (j : JobId) (xdl : XTime) (xcb : CbId) :
    (s.writeExt j xdl xcb).irqNest = s.irqNest := rfl
@[simp] theorem State.writeExt_irqPend (s : State) (j : JobId) (xdl : XTime) (xcb : CbId) :
    (s.writeExt j xdl xcb).irqPend = s.irqPend := rfl
@[simp] theorem State.writeExt_irqTs (s : State) (j : JobId) (xdl : XTime) (xcb : CbId) :
    (s.writeExt j xdl xcb).irqTs = s.irqTs := rfl
@[simp] theorem State.writeExt_rsleep (s : State) (j : JobId) (xdl : XTime) (xcb : CbId) :
    (s.writeExt j xdl xcb).rsleep = s.rsleep := rfl
@[simp] theorem State.writeExt_rop (s : State) (j : JobId) (xdl : XTime) (xcb : CbId) :
    (s.writeExt j xdl xcb).rop = s.rop := rfl
@[simp] theorem State.writeExt_chipMode (s : State) (j : JobId) (xdl : XTime) (xcb : CbId) :
    (s.writeExt j xdl xcb).chipMode = s.chipMode := rfl
@[simp] theorem State.writeExt_rcfg (s : State) (j : JobId) (xdl : XTime) (xcb : CbId) :
    (s.writeExt j xdl xcb).rcfg = s.rcfg := rfl
@[simp] theorem State.writeExt_frame (s : State) (j : JobId) (xdl : XTime) (xcb : CbId) :
    (s.writeExt j xdl xcb).frame = s.frame := rfl
@[simp] theorem State.writeExt_fault (s : State) (j : JobId) (xdl : XTime) (xcb : CbId) :
    (s.writeExt j xdl xcb).fault = s.fault := rfl
@[simp] theorem State.writeExt_faultCode (s : State) (j : JobId) (xdl : XTime) (xcb : CbId) :
    (s.writeExt j xdl xcb).faultCode = s.faultCode := rfl
@[simp] theorem State.writeExt_cs (s : State) (j : JobId) (xdl : XTime) (xcb : CbId) :
    (s.writeExt j xdl xcb).cs = s.cs := rfl
@[simp] theorem State.writeExt_rst (s : State) (j : JobId) (xdl : XTime) (xcb : CbId) :
    (s.writeExt j xdl xcb).rst = s.rst := rfl
@[simp] theorem State.writeExt_ant (s : State) (j : JobId) (xdl : XTime) (xcb : CbId) :
    (s.writeExt j xdl xcb).ant = s.ant := rfl
@[simp] theorem State.writeExt_tcxo (s : State) (j : JobId) (xdl : XTime) (xcb : CbId) :
    (s.writeExt j xdl xcb).tcxo = s.tcxo := rfl
@[simp] theorem State.writeExt_hung (s : State) (j : JobId) (xdl : XTime) (xcb : CbId) :
    (s.writeExt j xdl xcb).hung = s.hung := rfl
@[simp] theorem State.writeExt_trace (s : State) (j : JobId) (xdl : XTime) (xcb : CbId) :
    (s.writeExt j xdl xcb).trace = s.trace := rfl
@[simp] theorem State.writeExt_host (s : State) (j : JobId) (xdl : XTime) (xcb : CbId) :
    (s.writeExt j xdl xcb).host = s.host := rfl
@[simp] theorem State.writeExt_turns (s : State) (j : JobId) (xdl : XTime) (xcb : CbId) :
    (s.writeExt j xdl xcb).turns = s.turns := rfl
@[simp] theorem State.writeExt_moments (s : State) (j : JobId) (xdl : XTime) (xcb : CbId) :
    (s.writeExt j xdl xcb).moments = s.moments := rfl
@[simp] theorem State.writeExt_busyIn (s : State) (j : JobId) (xdl : XTime) (xcb : CbId) :
    (s.writeExt j xdl xcb).busyIn = s.busyIn := rfl
@[simp] theorem State.writeExt_chipIn (s : State) (j : JobId) (xdl : XTime) (xcb : CbId) :
    (s.writeExt j xdl xcb).chipIn = s.chipIn := rfl
@[simp] theorem State.writeExt_draws (s : State) (j : JobId) (xdl : XTime) (xcb : CbId) :
    (s.writeExt j xdl xcb).draws = s.draws := rfl
@[simp] theorem State.writeExt_busData (s : State) (j : JobId) (xdl : XTime) (xcb : CbId) :
    (s.writeExt j xdl xcb).busData = s.busData := rfl

/-! ## SCHED writes Q, EXACT_CNT and a job record (R136) -/

@[simp] theorem State.schedule_xtime (s : State) (now : Tick) (j : JobId) (dl : Tick) (cb : CbId) (fl : FlagSet) :
    (s.schedule now j dl cb fl).xtime = s.xtime := by
  simp [State.schedule]
@[simp] theorem State.schedule_rlState (s : State) (now : Tick) (j : JobId) (dl : Tick) (cb : CbId) (fl : FlagSet) :
    (s.schedule now j dl cb fl).rlState = s.rlState := by
  simp [State.schedule]
@[simp] theorem State.schedule_rlLoop (s : State) (now : Tick) (j : JobId) (dl : Tick) (cb : CbId) (fl : FlagSet) :
    (s.schedule now j dl cb fl).rlLoop = s.rlLoop := by
  simp [State.schedule]
@[simp] theorem State.schedule_curJob (s : State) (now : Tick) (j : JobId) (dl : Tick) (cb : CbId) (fl : FlagSet) :
    (s.schedule now j dl cb fl).curJob = s.curJob := by
  simp [State.schedule]
@[simp] theorem State.schedule_wdArmed (s : State) (now : Tick) (j : JobId) (dl : Tick) (cb : CbId) (fl : FlagSet) :
    (s.schedule now j dl cb fl).wdArmed = s.wdArmed := by
  simp [State.schedule]
@[simp] theorem State.schedule_lateCnt (s : State) (now : Tick) (j : JobId) (dl : Tick) (cb : CbId) (fl : FlagSet) :
    (s.schedule now j dl cb fl).lateCnt = s.lateCnt := by
  simp [State.schedule]
@[simp] theorem State.schedule_irqNest (s : State) (now : Tick) (j : JobId) (dl : Tick) (cb : CbId) (fl : FlagSet) :
    (s.schedule now j dl cb fl).irqNest = s.irqNest := by
  simp [State.schedule]
@[simp] theorem State.schedule_irqPend (s : State) (now : Tick) (j : JobId) (dl : Tick) (cb : CbId) (fl : FlagSet) :
    (s.schedule now j dl cb fl).irqPend = s.irqPend := by
  simp [State.schedule]
@[simp] theorem State.schedule_irqTs (s : State) (now : Tick) (j : JobId) (dl : Tick) (cb : CbId) (fl : FlagSet) :
    (s.schedule now j dl cb fl).irqTs = s.irqTs := by
  simp [State.schedule]
@[simp] theorem State.schedule_rsleep (s : State) (now : Tick) (j : JobId) (dl : Tick) (cb : CbId) (fl : FlagSet) :
    (s.schedule now j dl cb fl).rsleep = s.rsleep := by
  simp [State.schedule]
@[simp] theorem State.schedule_rop (s : State) (now : Tick) (j : JobId) (dl : Tick) (cb : CbId) (fl : FlagSet) :
    (s.schedule now j dl cb fl).rop = s.rop := by
  simp [State.schedule]
@[simp] theorem State.schedule_chipMode (s : State) (now : Tick) (j : JobId) (dl : Tick) (cb : CbId) (fl : FlagSet) :
    (s.schedule now j dl cb fl).chipMode = s.chipMode := by
  simp [State.schedule]
@[simp] theorem State.schedule_rcfg (s : State) (now : Tick) (j : JobId) (dl : Tick) (cb : CbId) (fl : FlagSet) :
    (s.schedule now j dl cb fl).rcfg = s.rcfg := by
  simp [State.schedule]
@[simp] theorem State.schedule_frame (s : State) (now : Tick) (j : JobId) (dl : Tick) (cb : CbId) (fl : FlagSet) :
    (s.schedule now j dl cb fl).frame = s.frame := by
  simp [State.schedule]
@[simp] theorem State.schedule_fault (s : State) (now : Tick) (j : JobId) (dl : Tick) (cb : CbId) (fl : FlagSet) :
    (s.schedule now j dl cb fl).fault = s.fault := by
  simp [State.schedule]
@[simp] theorem State.schedule_faultCode (s : State) (now : Tick) (j : JobId) (dl : Tick) (cb : CbId) (fl : FlagSet) :
    (s.schedule now j dl cb fl).faultCode = s.faultCode := by
  simp [State.schedule]
@[simp] theorem State.schedule_cs (s : State) (now : Tick) (j : JobId) (dl : Tick) (cb : CbId) (fl : FlagSet) :
    (s.schedule now j dl cb fl).cs = s.cs := by
  simp [State.schedule]
@[simp] theorem State.schedule_rst (s : State) (now : Tick) (j : JobId) (dl : Tick) (cb : CbId) (fl : FlagSet) :
    (s.schedule now j dl cb fl).rst = s.rst := by
  simp [State.schedule]
@[simp] theorem State.schedule_ant (s : State) (now : Tick) (j : JobId) (dl : Tick) (cb : CbId) (fl : FlagSet) :
    (s.schedule now j dl cb fl).ant = s.ant := by
  simp [State.schedule]
@[simp] theorem State.schedule_tcxo (s : State) (now : Tick) (j : JobId) (dl : Tick) (cb : CbId) (fl : FlagSet) :
    (s.schedule now j dl cb fl).tcxo = s.tcxo := by
  simp [State.schedule]
@[simp] theorem State.schedule_hung (s : State) (now : Tick) (j : JobId) (dl : Tick) (cb : CbId) (fl : FlagSet) :
    (s.schedule now j dl cb fl).hung = s.hung := by
  simp [State.schedule]
@[simp] theorem State.schedule_trace (s : State) (now : Tick) (j : JobId) (dl : Tick) (cb : CbId) (fl : FlagSet) :
    (s.schedule now j dl cb fl).trace = s.trace := by
  simp [State.schedule]
@[simp] theorem State.schedule_host (s : State) (now : Tick) (j : JobId) (dl : Tick) (cb : CbId) (fl : FlagSet) :
    (s.schedule now j dl cb fl).host = s.host := by
  simp [State.schedule]
@[simp] theorem State.schedule_turns (s : State) (now : Tick) (j : JobId) (dl : Tick) (cb : CbId) (fl : FlagSet) :
    (s.schedule now j dl cb fl).turns = s.turns := by
  simp [State.schedule]
@[simp] theorem State.schedule_moments (s : State) (now : Tick) (j : JobId) (dl : Tick) (cb : CbId) (fl : FlagSet) :
    (s.schedule now j dl cb fl).moments = s.moments := by
  simp [State.schedule]
@[simp] theorem State.schedule_busyIn (s : State) (now : Tick) (j : JobId) (dl : Tick) (cb : CbId) (fl : FlagSet) :
    (s.schedule now j dl cb fl).busyIn = s.busyIn := by
  simp [State.schedule]
@[simp] theorem State.schedule_chipIn (s : State) (now : Tick) (j : JobId) (dl : Tick) (cb : CbId) (fl : FlagSet) :
    (s.schedule now j dl cb fl).chipIn = s.chipIn := by
  simp [State.schedule]
@[simp] theorem State.schedule_draws (s : State) (now : Tick) (j : JobId) (dl : Tick) (cb : CbId) (fl : FlagSet) :
    (s.schedule now j dl cb fl).draws = s.draws := by
  simp [State.schedule]
@[simp] theorem State.schedule_busData (s : State) (now : Tick) (j : JobId) (dl : Tick) (cb : CbId) (fl : FlagSet) :
    (s.schedule now j dl cb fl).busData = s.busData := by
  simp [State.schedule]

/-! ## RIRQ writes IRQ_PEND, IRQ_TS, Q, EXACT_CNT, the record of RJOB and the trace (R245) -/

@[simp] theorem State.rirq_xtime (s : State) :
    (s.rirq).xtime = s.xtime := by
  simp [State.rirq]
@[simp] theorem State.rirq_rlState (s : State) :
    (s.rirq).rlState = s.rlState := by
  simp [State.rirq]
@[simp] theorem State.rirq_rlLoop (s : State) :
    (s.rirq).rlLoop = s.rlLoop := by
  simp [State.rirq]
@[simp] theorem State.rirq_curJob (s : State) :
    (s.rirq).curJob = s.curJob := by
  simp [State.rirq]
@[simp] theorem State.rirq_wdArmed (s : State) :
    (s.rirq).wdArmed = s.wdArmed := by
  simp [State.rirq]
@[simp] theorem State.rirq_lateCnt (s : State) :
    (s.rirq).lateCnt = s.lateCnt := by
  simp [State.rirq]
@[simp] theorem State.rirq_irqNest (s : State) :
    (s.rirq).irqNest = s.irqNest := by
  simp [State.rirq]
@[simp] theorem State.rirq_rsleep (s : State) :
    (s.rirq).rsleep = s.rsleep := by
  simp [State.rirq]
@[simp] theorem State.rirq_rop (s : State) :
    (s.rirq).rop = s.rop := by
  simp [State.rirq]
@[simp] theorem State.rirq_chipMode (s : State) :
    (s.rirq).chipMode = s.chipMode := by
  simp [State.rirq]
@[simp] theorem State.rirq_rcfg (s : State) :
    (s.rirq).rcfg = s.rcfg := by
  simp [State.rirq]
@[simp] theorem State.rirq_frame (s : State) :
    (s.rirq).frame = s.frame := by
  simp [State.rirq]
@[simp] theorem State.rirq_fault (s : State) :
    (s.rirq).fault = s.fault := by
  simp [State.rirq]
@[simp] theorem State.rirq_faultCode (s : State) :
    (s.rirq).faultCode = s.faultCode := by
  simp [State.rirq]
@[simp] theorem State.rirq_cs (s : State) :
    (s.rirq).cs = s.cs := by
  simp [State.rirq]
@[simp] theorem State.rirq_rst (s : State) :
    (s.rirq).rst = s.rst := by
  simp [State.rirq]
@[simp] theorem State.rirq_ant (s : State) :
    (s.rirq).ant = s.ant := by
  simp [State.rirq]
@[simp] theorem State.rirq_tcxo (s : State) :
    (s.rirq).tcxo = s.tcxo := by
  simp [State.rirq]
@[simp] theorem State.rirq_hung (s : State) :
    (s.rirq).hung = s.hung := by
  simp [State.rirq]
@[simp] theorem State.rirq_host (s : State) :
    (s.rirq).host = s.host := by
  simp [State.rirq]
@[simp] theorem State.rirq_turns (s : State) :
    (s.rirq).turns = s.turns := by
  simp [State.rirq]
@[simp] theorem State.rirq_moments (s : State) :
    (s.rirq).moments = s.moments := by
  simp [State.rirq]
@[simp] theorem State.rirq_busyIn (s : State) :
    (s.rirq).busyIn = s.busyIn := by
  simp [State.rirq]
@[simp] theorem State.rirq_chipIn (s : State) :
    (s.rirq).chipIn = s.chipIn := by
  simp [State.rirq]
@[simp] theorem State.rirq_draws (s : State) :
    (s.rirq).draws = s.draws := by
  simp [State.rirq]
@[simp] theorem State.rirq_busData (s : State) :
    (s.rirq).busData = s.busData := by
  simp [State.rirq]

end Sys2Proof.Machine
end

