-- ==== Sys2Proof/Laws/Store.lean ====
section
/-!
SUPPORT. The laws of the sparse stores: a read after a write, every write keeps the canonical form, equal contents are
equal data, and the same for FRAME and the job-record store.
-/

namespace Sys2Proof.Machine

/-- In a store with rising keys all above a, nothing is listed at a. -/
theorem storeGet_of_lt {α : Type} {d : α} {m : List (Nat × α)} {a : Nat} (h : ∀ k ∈ m.map Prod.fst, a < k) :
    storeGet d m a = d := by
  induction m with
  | nil => rfl
  | cons c rest ih =>
    obtain ⟨b, w⟩ := c
    have hb : a < b := h b (by simp)
    simp only [storeGet, if_neg (Nat.ne_of_gt hb)]
    exact ih fun k hk => h k (by simp only [List.map_cons, List.mem_cons]; exact Or.inr hk)

variable {α : Type} [DecidableEq α]

theorem storeGet_put_self (d : α) (m : List (Nat × α)) (a : Nat) (v : α) (hm : storeCanonical d m) :
    storeGet d (storePut d m a v) a = v := by
  induction m with
  | nil => by_cases h : v = d <;> simp [storePut, storeGet, h]
  | cons c rest ih =>
    obtain ⟨b, w⟩ := c
    obtain ⟨hs, hd⟩ := hm
    simp only [List.map_cons, List.pairwise_cons] at hs
    have hrest : storeCanonical d rest := ⟨hs.2, fun x hx => hd x (List.mem_cons_of_mem _ hx)⟩
    simp only [storePut]
    split
    · rename_i hlt
      simp only [storeGet, if_neg (Nat.ne_of_lt hlt)]
      exact ih hrest
    · split
      · rename_i hnlt heq
        subst heq
        split
        · rename_i hv
          subst hv
          exact storeGet_of_lt hs.1
        · simp [storeGet]
      · rename_i hnlt hne
        have hab : a < b := by omega
        split
        · rename_i hv
          subst hv
          simp only [storeGet, if_neg hne]
          exact storeGet_of_lt fun k hk => Nat.lt_trans hab (hs.1 k hk)
        · simp [storeGet]

theorem storeGet_put_other (d : α) (m : List (Nat × α)) {a k : Nat} (v : α) (hk : k ≠ a) :
    storeGet d (storePut d m a v) k = storeGet d m k := by
  have hk' : a ≠ k := fun h => hk h.symm
  induction m with
  | nil => by_cases h : v = d <;> simp [storePut, storeGet, h, hk']
  | cons c rest ih =>
    obtain ⟨b, w⟩ := c
    simp only [storePut]
    split
    · simp only [storeGet]
      split
      · rfl
      · exact ih
    · split
      · rename_i hnlt heq
        subst heq
        split
        · simp [storeGet, hk']
        · simp [storeGet, hk']
      · split
        · rfl
        · simp [storeGet, hk']

theorem mem_storePut {d : α} {m : List (Nat × α)} {a : Nat} {v : α} {c : Nat × α} (h : c ∈ storePut d m a v) :
    c ∈ m ∨ (c = (a, v) ∧ v ≠ d) := by
  induction m with
  | nil =>
    by_cases hv : v = d
    · simp [storePut, hv] at h
    · simp [storePut, hv] at h; exact Or.inr ⟨h, hv⟩
  | cons x rest ih =>
    obtain ⟨b, w⟩ := x
    simp only [storePut] at h
    split at h
    · rcases List.mem_cons.mp h with h | h
      · exact Or.inl (h ▸ List.mem_cons_self)
      · rcases ih h with h | h
        · exact Or.inl (List.mem_cons_of_mem _ h)
        · exact Or.inr h
    · split at h
      · split at h
        · exact Or.inl (List.mem_cons_of_mem _ h)
        · rename_i hv
          rcases List.mem_cons.mp h with h | h
          · exact Or.inr ⟨h, hv⟩
          · exact Or.inl (List.mem_cons_of_mem _ h)
      · split at h
        · exact Or.inl h
        · rename_i hv
          rcases List.mem_cons.mp h with h | h
          · exact Or.inr ⟨h, hv⟩
          · exact Or.inl h

/-- Every write keeps the canonical form. -/
theorem storePut_canonical {d : α} {m : List (Nat × α)} (a : Nat) (v : α) (hm : storeCanonical d m) :
    storeCanonical d (storePut d m a v) := by
  refine ⟨?_, fun c hc => ?_⟩
  · induction m with
    | nil => by_cases h : v = d <;> simp [storePut, h]
    | cons x rest ih =>
      obtain ⟨b, w⟩ := x
      obtain ⟨hs, hd⟩ := hm
      simp only [List.map_cons, List.pairwise_cons] at hs
      have hrest : storeCanonical d rest := ⟨hs.2, fun x hx => hd x (List.mem_cons_of_mem _ hx)⟩
      simp only [storePut]
      split
      · rename_i hlt
        simp only [List.map_cons, List.pairwise_cons]
        refine ⟨fun k hk => ?_, ih hrest⟩
        obtain ⟨c, hc, rfl⟩ := List.mem_map.mp hk
        rcases mem_storePut hc with hc | ⟨rfl, _⟩
        · exact hs.1 _ (List.mem_map_of_mem hc)
        · exact hlt
      · split
        · rename_i hnlt heq
          subst heq
          split
          · exact hs.2
          · simp only [List.map_cons, List.pairwise_cons]; exact hs
        · rename_i hnlt hne
          have hab : a < b := by omega
          split
          · simp only [List.map_cons, List.pairwise_cons]; exact hs
          · simp only [List.map_cons, List.pairwise_cons]
            refine ⟨fun k hk => ?_, hs⟩
            rcases List.mem_cons.mp hk with rfl | hk
            · exact hab
            · exact Nat.lt_trans hab (hs.1 k hk)
  · rcases mem_storePut hc with hc | ⟨rfl, hv⟩
    · exact hm.2 c hc
    · exact hv

/-! ## FRAME -/

theorem memory_write_wf {m : List Host.Cell} (a : Nat) (v : Byte) (hm : Memory.wf m) : Memory.wf (Memory.write m a v) := by
  unfold Memory.write
  split
  · rename_i ha
    refine ⟨storePut_canonical a v hm.1, fun c hc => ?_⟩
    rcases mem_storePut hc with hc | ⟨rfl, _⟩
    · exact hm.2 c hc
    · exact ha
  · exact hm

theorem memory_writeFrom_wf {m : List Host.Cell} (vs : List Byte) (a : Nat) (hm : Memory.wf m) :
    Memory.wf (Memory.writeFrom m a vs) := by
  induction vs generalizing m a with
  | nil => exact hm
  | cons v vs ih => exact ih (a + 1) (memory_write_wf a v hm)

theorem memory_read_write_self {m : List Host.Cell} {a : Nat} (v : Byte) (hm : Memory.wf m) (ha : a < MAX_LEN) :
    Memory.read (Memory.write m a v) a = v := by
  simp only [Memory.read, Memory.write, if_pos ha]
  exact storeGet_put_self _ _ _ _ hm.1

theorem memory_read_write_other (m : List Host.Cell) {a k : Nat} (v : Byte) (hk : k ≠ a) :
    Memory.read (Memory.write m a v) k = Memory.read m k := by
  simp only [Memory.read, Memory.write]
  split
  · exact storeGet_put_other _ _ _ hk
  · rfl

/-- Bytes outside the written range read as before. -/
theorem memory_read_writeFrom_outside (vs : List Byte) (m : List Host.Cell) {a k : Nat}
    (hk : k < a ∨ a + vs.length ≤ k) : Memory.read (Memory.writeFrom m a vs) k = Memory.read m k := by
  induction vs generalizing m a with
  | nil => rfl
  | cons v vs ih =>
    simp only [List.length_cons] at hk
    simp only [Memory.writeFrom]
    rw [ih (Memory.write m a v) (by omega), memory_read_write_other m v (by omega)]

/-- Bytes inside the written range read as written. -/
theorem memory_read_writeFrom_inside (vs : List Byte) {m : List Host.Cell} {a : Nat} (hm : Memory.wf m) {i : Nat}
    (hi : i < vs.length) (ha : a + vs.length ≤ MAX_LEN) :
    Memory.read (Memory.writeFrom m a vs) (a + i) = vs.getD i 0#8 := by
  induction vs generalizing m a i with
  | nil => simp at hi
  | cons v vs ih =>
    simp only [List.length_cons] at hi ha
    simp only [Memory.writeFrom]
    cases i with
    | zero =>
      rw [memory_read_writeFrom_outside vs _ (by omega)]
      exact memory_read_write_self v hm (by omega)
    | succ i =>
      have h := ih (m := Memory.write m a v) (a := a + 1) (i := i) (memory_write_wf a v hm) (by omega) (by omega)
      rw [show a + (i + 1) = a + 1 + i by omega, h]
      rfl

/-! ## JOBS -/

@[simp] theorem job_setJob_self {s : State} (hs : storeCanonical JobRec.reset s.jobs) (j : JobId) (r : JobRec) :
    (s.setJob j r).job j = r :=
  storeGet_put_self _ _ _ _ hs

theorem job_setJob_other (s : State) {j k : JobId} (r : JobRec) (hk : k ≠ j) : (s.setJob j r).job k = s.job k :=
  storeGet_put_other _ _ _ fun h => hk (BitVec.eq_of_toNat_eq h)

end Sys2Proof.Machine
end

