-- ==== Sys2Proof/Laws/Ops.lean ====
section
/-!
SUPPORT. What each shared operation does when no other agent acts, said once: the nesting primitives, SCHED', the busy waits,
the bus frame, and command acceptance. A later proof cites these and unfolds none of them.
-/

namespace Sys2Proof.Machine

/-! ## Configuration -/

theorem Params.sample_ok : Params.sample.ok = true := by decide

/-- The hardware's configuration is legal (U16). -/
theorem params_ok : Config.params.ok = true := by
  unfold Config.params
  split
  · assumption
  · exact Params.sample_ok

/-! ## The fatal entry -/

theorem hardFault_eq (s : State) (c : FaultCode) (h : s.fault = false) :
    s.hardFault c = { s with
      fault := true, faultCode := c.code
      trace := s.trace ++ (if Config.debugOutput then [.debug c.code] else []) ++ [.fatal c.code] } := by
  simp [State.hardFault, h]

/-! ## Nesting (R180, R181) -/

theorem nest_pred_eq_zero (n : BitVec 8) : n - 1 = 0#8 ↔ n = 1#8 := by
  constructor <;> intro h <;> bv_omega

theorem nest_succ_eq_one (n : BitVec 8) : n + 1 = 1#8 ↔ n = 0#8 := by
  constructor <;> intro h <;> bv_omega

theorem nest_succ_ne_zero {n : BitVec 8} (h : n ≠ NEST_MAX) : n + 1 ≠ 0#8 := by
  have h1 : n ≠ 255#8 := h
  bv_omega

theorem irqDisable_ok {s : State} (h : s.irqNest ≠ NEST_MAX) :
    irqDisable s = .ok () { s with
      irqNest := s.irqNest + 1, trace := s.trace ++ if s.irqNest = 0#8 then [.irqMask true] else [] } := by
  unfold irqDisable
  rw [if_neg h]
  split <;> simp [State.emit]

theorem irqDisable_max {s : State} (h : s.irqNest = NEST_MAX) : irqDisable s = .error .fatal (s.hardFault .assertion) := by
  simp [irqDisable, h]

theorem irqEnable_zero {s : State} (h : s.irqNest = 0#8) : irqEnable s = .error .fatal (s.hardFault .assertion) := by
  simp [irqEnable, h]

theorem serveIrq_of_not {s : State} (h : ¬(s.irqPend = true ∧ s.irqNest = 0#8 ∧ s.fault = false)) : s.serveIrq = s := by
  unfold State.serveIrq
  split
  · rename_i hc
    simp only [Bool.and_eq_true, beq_iff_eq, Bool.not_eq_true'] at hc
    exact absurd ⟨hc.1.1, hc.1.2, hc.2⟩ h
  · rfl

theorem serveIrq_of {s : State} (hp : s.irqPend = true) (hn : s.irqNest = 0#8) (hf : s.fault = false) :
    s.serveIrq = s.rirq := by
  simp [State.serveIrq, hp, hn, hf]

/-- An enable that leaves interrupts suppressed, or after which none is pending. -/
theorem irqEnable_ok {s : State} (h : s.irqNest ≠ 0#8) (hp : ¬(s.irqNest = 1#8 ∧ s.irqPend = true ∧ s.fault = false)) :
    irqEnable s = .ok () { s with
      irqNest := s.irqNest - 1, trace := s.trace ++ if s.irqNest = 1#8 then [.irqMask false] else [] } := by
  unfold irqEnable
  rw [if_neg h]
  by_cases h1 : s.irqNest = 1#8
  · have h2 : s.irqNest - 1 = 0#8 := by rw [h1]; rfl
    simp only [h2, if_pos h1, if_true]
    rw [serveIrq_of_not]
    · rfl
    · simp only [State.emit_irqPend, State.emit_irqNest, State.emit_fault]
      exact fun hc => hp ⟨h1, hc.1, hc.2.2⟩
  · have h2 : s.irqNest - 1 ≠ 0#8 := fun hc => h1 ((nest_pred_eq_zero _).mp hc)
    simp only [if_neg h2, if_neg h1, List.append_nil]

/-- An enable that ends the suppression with an interrupt pending runs RIRQ right after IrqMask(0) (R283 b). -/
theorem irqEnable_serves {s : State} (h : s.irqNest = 1#8) (hp : s.irqPend = true) (hf : s.fault = false) :
    irqEnable s = .ok () (State.rirq { s with irqNest := 0#8, trace := s.trace ++ [.irqMask false] }) := by
  unfold irqEnable
  have h2 : s.irqNest - 1 = 0#8 := by rw [h]; rfl
  rw [if_neg (by rw [h]; decide)]
  simp only [h2, if_true]
  exact congrArg (EStateM.Result.ok ()) (serveIrq_of hp rfl hf)

/-! ## SCHED' (R136, R152) -/

theorem scheduleOp_quiet {s : State} (h : s.quiet) (now : Tick) (j : JobId) (dl : Tick) (cb : CbId) (fl : FlagSet) :
    scheduleOp now j dl cb fl s = .ok () (s.schedule now j dl cb fl) := by
  unfold scheduleOp State.schedule
  rw [upd_bind, tau_bind_quiet (by simpa [State.quiet] using h)]
  rw [upd_bind, tau_bind_quiet (by simpa [State.quiet] using h)]
  rw [upd_bind, tau_bind_quiet (by simpa [State.quiet] using h)]
  rfl

/-- The lines of SCHED read and write the queue, the records and the counter only. -/
theorem schedule_congr {s : State} (nest : BitVec NEST_W) (tr : List Event) (now : Tick) (j : JobId) (dl : Tick)
    (cb : CbId) (fl : FlagSet) :
    ({ s with irqNest := nest, trace := tr } : State).schedule now j dl cb fl
      = { s.schedule now j dl cb fl with irqNest := nest, trace := tr } := by
  unfold State.schedule State.countExact State.enqueue State.writeJob State.setJob State.unlink State.queued State.job
  dsimp only
  split <;> rfl

/-- SCHED' below the nesting limit, with no interrupt waiting. -/
theorem schedPrime_quiet {s : State} (h : s.quiet) (hn : s.irqNest ≠ NEST_MAX) (hi : s.irqSettled) (hf : s.fault = false)
    (now : Tick) (j : JobId) (dl : Tick) (cb : CbId) (fl : FlagSet) :
    schedPrime now j dl cb fl s = .ok () { s.schedule now j dl cb fl with
      trace := s.trace ++ if s.irqNest = 0#8 then [.irqMask true, .irqMask false] else [] } := by
  unfold schedPrime
  rw [bind_ok (irqDisable_ok hn), tau_bind_quiet (by simpa [State.quiet] using h),
    bind_ok (scheduleOp_quiet (by simpa [State.quiet] using h) _ _ _ _ _),
    tau_bind_quiet (by simpa [State.quiet] using h), irqEnable_ok]
  · rw [schedule_congr]
    by_cases h0 : s.irqNest = 0#8
    · simp [h0]
    · simp [h0]
  · simp only [State.schedule_irqNest]
    exact nest_succ_ne_zero hn
  · simp only [State.schedule_irqNest, State.schedule_irqPend, State.schedule_fault]
    exact fun hc => hi hf ⟨hc.2.1, (nest_succ_eq_one _).mp hc.1⟩

/-! ## The waits -/

/-- A quiet wait for a deadline ends at the first due tick (log entry 13). -/
theorem waitDue_quiet {s : State} (h : s.quiet) (d : Tick) :
    waitDue d s = .ok () { s with xtime := dueTime d s.xtime } := by
  unfold waitDue
  rw [show s.moments = [] from h]
  unfold waitDueWith
  rw [← show s.moments = [] from h]

/-! ## CHIP's answers -/

theorem nextBusy_run (s : State) : nextBusy s = .ok s.busyNow s.afterBusy := by
  unfold nextBusy State.busyNow State.afterBusy
  cases s.busyIn <;> rfl

/-- What n answers consume. -/
theorem afterAnswers_eq (n : Nat) (s : State) :
    s.afterAnswers n = { s with chipIn := s.chipIn.drop n, draws := s.draws + (n - s.chipIn.length) } := by
  induction n generalizing s with
  | zero => simp [State.afterAnswers]
  | succ n ih =>
    cases h : s.chipIn with
    | nil => simp [State.afterAnswers, h, ih]; omega
    | cons b rest => simp [State.afterAnswers, h, ih]

theorem answers_length (n : Nat) (s : State) : (s.answers n).length = n := by
  induction n generalizing s with
  | zero => rfl
  | succ n ih =>
    cases h : s.chipIn with
    | nil => simp [State.answers, h, ih]
    | cons b rest => simp [State.answers, h, ih]

/-- The answers depend on what is scripted and on the draw count, and on nothing else. -/
theorem answers_congr (n : Nat) {s t : State} (h1 : t.chipIn = s.chipIn) (h2 : t.draws = s.draws) :
    t.answers n = s.answers n := by
  induction n generalizing s t with
  | zero => rfl
  | succ n ih =>
    cases h : s.chipIn with
    | nil =>
      simp only [State.answers, h1, h, h2]
      exact congrArg _ (ih rfl rfl)
    | cons b rest =>
      simp only [State.answers, h1, h]
      exact congrArg _ (ih rfl h2)

theorem answers_add (m n : Nat) (s : State) : s.answers (m + n) = s.answers m ++ (s.afterAnswers m).answers n := by
  induction m generalizing s with
  | zero => simp [State.answers, State.afterAnswers]
  | succ m ih =>
    rw [show m + 1 + n = (m + n) + 1 by omega]
    cases h : s.chipIn with
    | nil => simp [State.answers, State.afterAnswers, h, ih]
    | cons b rest => simp [State.answers, State.afterAnswers, h, ih]

theorem afterAnswers_add (m n : Nat) (s : State) : (s.afterAnswers m).afterAnswers n = s.afterAnswers (m + n) := by
  simp only [afterAnswers_eq, List.length_drop, List.drop_drop]
  congr 1
  omega

/-- What is scripted for CHIP comes back first. -/
theorem answers_scripted {s : State} {l r : List Byte} (h : s.chipIn = l ++ r) : s.answers l.length = l := by
  induction l generalizing s with
  | nil => rfl
  | cons b l ih =>
    simp only [List.length_cons, State.answers, h, List.cons_append]
    exact congrArg _ (ih rfl)

/-! ## The frame (R190) -/

/-- The state once the bytes of l are out and their answers are in. -/
def State.sent (l : List Byte) (s : State) : State :=
  State.afterAnswers l.length { s with trace := s.trace ++ l.map .xfer }

theorem sent_eq (l : List Byte) (s : State) :
    s.sent l = { s with
      trace := s.trace ++ l.map .xfer, chipIn := s.chipIn.drop l.length
      draws := s.draws + (l.length - s.chipIn.length) } := by
  simp [State.sent, afterAnswers_eq]

theorem sent_quiet {s : State} (h : s.quiet) (l : List Byte) : (s.sent l).quiet := by
  simpa [sent_eq, State.quiet] using h

theorem sent_append (l r : List Byte) (s : State) : (s.sent l).sent r = s.sent (l ++ r) := by
  simp only [sent_eq, List.length_drop, List.drop_drop, List.map_append, List.append_assoc, List.length_append]
  congr 1
  omega

theorem xfer_run (o : Byte) (s : State) : xfer o s = .ok ((s.answers 1).headD 0#8) (s.sent [o]) := by
  unfold xfer
  rw [emit_bind]
  unfold nextByte State.sent
  cases h : s.chipIn with
  | nil => simp [State.emit, h, State.answers, State.afterAnswers]
  | cons b rest => simp [State.emit, h, State.answers, State.afterAnswers]

theorem sendAll_quiet {s : State} (h : s.quiet) (l : List Byte) : sendAll l s = .ok () (s.sent l) := by
  induction l generalizing s with
  | nil => simp [sendAll, sent_eq]
  | cons o rest ih =>
    unfold sendAll
    rw [bind_ok (xfer_run o s), tau_bind_quiet (sent_quiet h _), ih (sent_quiet h _), sent_append]
    rfl

theorem recvAll_quiet {s : State} (h : s.quiet) (n : Nat) :
    recvAll n s = .ok (s.answers n) (s.sent (List.replicate n NOP_BYTE)) := by
  induction n generalizing s with
  | zero => simp [recvAll, sent_eq, State.answers]
  | succ n ih =>
    unfold recvAll
    rw [bind_ok (xfer_run _ s), tau_bind_quiet (sent_quiet h _), bind_ok (ih (sent_quiet h _)), sent_append]
    have h1 : s.answers (n + 1) = (s.answers 1).headD 0#8 :: (s.sent [NOP_BYTE]).answers n := by
      rw [Nat.add_comm, answers_add]
      have h2 : (s.afterAnswers 1).answers n = (s.sent [NOP_BYTE]).answers n := by
        apply answers_congr <;> simp [sent_eq, afterAnswers_eq]
      rw [h2]
      cases hc : s.chipIn with
      | nil => simp [State.answers, hc]
      | cons b rest => simp [State.answers, hc]
    rw [h1]
    rfl

theorem busyPolls_quiet {s : State} (h : s.quiet) (n : Nat) :
    busyPolls n s = .ok () { s with trace := s.trace ++ List.replicate n .busyPoll } := by
  induction n generalizing s with
  | zero => simp [busyPolls]
  | succ n ih =>
    unfold busyPolls
    rw [emit_bind, tau_bind_quiet (by simpa [State.quiet] using h), ih (by simpa [State.quiet] using h)]
    simp [State.emit, List.replicate_succ]

theorem busyWait_quiet {s : State} (h : s.quiet) {n : Nat} (hb : s.busyNow = some n) :
    busyWait s = .ok () { s.afterBusy with trace := s.trace ++ List.replicate (n + 1) .busyPoll } := by
  have hq : s.afterBusy.quiet := by
    unfold State.quiet State.afterBusy
    cases s.busyIn <;> exact h
  have ht : s.afterBusy.trace = s.trace := by
    unfold State.afterBusy
    cases s.busyIn <;> rfl
  unfold busyWait
  rw [bind_ok (nextBusy_run s), hb, busyAnswer, bind_ok (busyPolls_quiet hq n)]
  simp [State.emit, ht, List.replicate_succ']

theorem readStatus_quiet {s : State} (h : s.quiet) (st : Bool) :
    readStatus st s = .ok () (s.sent (List.replicate (if st then 1 else 0) NOP_BYTE)) := by
  unfold readStatus
  cases st with
  | false => simp [sent_eq]
  | true =>
    rw [if_pos rfl, bind_ok (xfer_run _ s), tau_quiet (sent_quiet h _)]
    rfl

/-- The state a frame leaves, with its fields written out (R190, R191). -/
theorem frameDone_eq (op : Byte) (out : List Byte) (st : Bool) (nin n : Nat) (s : State) :
    frameDone op out st nin n s = { s.afterBusy with
      rsleep := false, cs := .deasserted
      trace := s.trace ++ frameEvents n (frameOut op out st nin)
      chipIn := s.afterBusy.chipIn.drop (frameOut op out st nin).length
      draws := s.afterBusy.draws + ((frameOut op out st nin).length - s.afterBusy.chipIn.length)
      busData := frameData op out st nin s } := by
  unfold frameDone
  rw [afterAnswers_eq]

theorem frameData_length (op : Byte) (out : List Byte) (st : Bool) (nin : Nat) (s : State) :
    (frameData op out st nin s).length = nin := by
  unfold frameData
  rw [List.length_drop, answers_length]
  simp only [frameOut, List.length_append, List.length_cons, List.length_replicate]
  omega

/-- A frame while no other agent acts and the busy line clears after n polls (R190 to R193). -/
theorem busFrame_quiet {s : State} (h : s.quiet) {n : Nat} (hb : s.busyNow = some n) (op : Byte) (out : List Byte)
    (st : Bool) (nin : Nat) :
    busFrame op out st nin s = .ok (frameData op out st nin s) (frameDone op out st nin n s) := by
  let s2 : State := { s with rsleep := false, cs := .asserted, trace := s.trace ++ [.cs .asserted] }
  have h2 : s2.quiet := h
  have hb2 : s2.busyNow = some n := hb
  unfold busFrame
  rw [upd_bind, tau_bind_quiet (by simpa [State.quiet] using h), upd_bind,
    tau_bind_quiet (by simpa [State.quiet] using h)]
  refine (bind_ok (busyWait_quiet h2 hb2)).trans ?_
  generalize hs3 : ({ s2.afterBusy with trace := s2.trace ++ List.replicate (n + 1) .busyPoll } : State) = s3
  have h3 : s3.quiet := by
    rw [← hs3]
    unfold State.quiet State.afterBusy
    cases s.busyIn <;> exact h
  rw [tau_bind_quiet h3, bind_ok (xfer_run _ _), tau_bind_quiet (sent_quiet h3 _),
    bind_ok (sendAll_quiet (sent_quiet h3 _) _), sent_append, bind_ok (readStatus_quiet (sent_quiet h3 _) st),
    sent_append, bind_ok (recvAll_quiet (sent_quiet h3 _) nin), sent_append, upd_bind, pure_run]
  have hout : ([op] ++ out ++ List.replicate (if st = true then 1 else 0) NOP_BYTE) ++ List.replicate nin NOP_BYTE
      = frameOut op out st nin := by
    simp only [frameOut, List.replicate_add, List.append_assoc, List.cons_append, List.nil_append]
  generalize hl : [op] ++ out ++ List.replicate (if st = true then 1 else 0) NOP_BYTE = l at hout ⊢
  rw [hout]
  have hlen : (frameOut op out st nin).length = l.length + nin := by
    rw [← hout]; simp
  have hdata : (s3.sent l).answers nin = frameData op out st nin s := by
    unfold frameData
    rw [hlen, answers_add, Nat.add_sub_cancel, List.drop_left' (answers_length _ _)]
    apply answers_congr
    · rw [sent_eq, afterAnswers_eq, ← hs3]
      unfold State.afterBusy
      cases s.busyIn <;> rfl
    · rw [sent_eq, afterAnswers_eq, ← hs3]
      unfold State.afterBusy
      cases s.busyIn <;> rfl
  rw [hdata, frameDone_eq, sent_eq, ← hs3]
  unfold State.afterBusy
  cases hc : s.busyIn <;> simp [s2, frameEvents, State.emit]

/-- A busy line that never clears (R192, U9): the frame stops in its wait, with nothing sent. -/
theorem busFrame_hangs {s : State} (h : s.quiet) (hb : s.busyNow = none) (op : Byte) (out : List Byte) (st : Bool)
    (nin : Nat) :
    busFrame op out st nin s = .error .hang { s.afterBusy with
      hung := true, rsleep := false, cs := .asserted, trace := s.trace ++ [.cs .asserted, .busyPoll] } := by
  let s2 : State := { s with rsleep := false, cs := .asserted, trace := s.trace ++ [.cs .asserted] }
  have hb2 : s2.busyNow = none := hb
  unfold busFrame
  rw [upd_bind, tau_bind_quiet (by simpa [State.quiet] using h), upd_bind,
    tau_bind_quiet (by simpa [State.quiet] using h)]
  refine bind_error (s := s2) (e := .hang) ?_
  unfold busyWait
  rw [bind_ok (nextBusy_run s2), hb2]
  unfold busyAnswer hang
  unfold State.afterBusy
  cases s.busyIn <;> simp [s2, State.emit]

/-! ## Command acceptance (R268) -/

theorem portOpen_free {s : State} (h : s.portOpen = true) : s.fault = false ∧ s.hung = false ∧ s.rlState ≠ .sleeping := by
  unfold State.portOpen at h
  cases hf : s.fault <;> cases hh : s.hung <;> cases hr : s.rlState <;> simp_all

theorem accepted_open {s : State} {c : CmdClass} (h : s.acceptance c = .accepted) : s.portOpen = true := by
  unfold State.acceptance at h
  cases ho : s.portOpen with
  | true => rfl
  | false => simp [ho] at h

theorem accepted_free {s : State} {c : CmdClass} (h : s.acceptance c = .accepted) : s.fault = false ∧ s.hung = false :=
  ⟨(portOpen_free (accepted_open h)).1, (portOpen_free (accepted_open h)).2.1⟩

/-- RUNSTEP, RUNLOOP: accepted in STOPPED only. -/
theorem accepted_runner {s : State} (h : s.acceptance .runner = .accepted) : s.rlState = .stopped ∧ s.rlLoop = false := by
  have ho := accepted_open h
  unfold State.acceptance at h
  rw [ho] at h
  unfold State.portOpen at ho
  cases hr : s.rlState <;> simp_all

/-- CBRET: accepted in DISPATCHING only. -/
theorem accepted_return {s : State} (h : s.acceptance .callbackReturn = .accepted) : s.rlState = .dispatching := by
  have ho := accepted_open h
  unfold State.acceptance at h
  rw [ho] at h
  unfold State.portOpen at ho
  cases hr : s.rlState <;> simp_all

/-- An accepted command that runs to its end. -/
theorem command_ok {c : CmdClass} {m : Op Unit} {s t : State} (h : s.acceptance c = .accepted) (hm : m s = .ok () t) :
    command c m s = .next t := by
  simp only [command, h, runOp_ok hm]

theorem command_error {c : CmdClass} {m : Op Unit} {s t : State} {e : Stop} (h : s.acceptance c = .accepted)
    (hm : m s = .error e t) : command c m s = .next t := by
  simp only [command, h, runOp_error hm]

/-- Whatever the acceptance, the answer is a next state: the operation's, the assertion's, or the state itself. -/
theorem command_cases {c : CmdClass} {m : Op Unit} {s t : State} (h : command c m s = .next t) :
    (s.acceptance c = .accepted ∧ t = runOp m s) ∨ (s.acceptance c = .assertFails ∧ t = s.hardFault .assertion)
      ∨ (s.acceptance c = .notTaken ∧ t = s) := by
  unfold command at h
  cases ha : s.acceptance c <;> rw [ha] at h <;> injection h with h <;> simp [h.symm]

theorem internalOp_ok {α : Type} {m : Op α} {s t : State} {a : α} (h : s.seqFree) (hm : m s = .ok a t) :
    internalOp m s = .next t := by
  simp [internalOp, h.1, h.2, runOp_ok hm]

theorem internalOp_error {α : Type} {m : Op α} {s t : State} {e : Stop} (h : s.seqFree) (hm : m s = .error e t) :
    internalOp m s = .next t := by
  simp [internalOp, h.1, h.2, runOp_error hm]

theorem internalOp_cases {α : Type} {m : Op α} {s t : State} (h : internalOp m s = .next t) :
    t = s ∨ (s.seqFree ∧ t = runOp m s) := by
  unfold internalOp at h
  injection h with h
  split at h
  · exact Or.inl h.symm
  · rename_i hc
    simp only [Bool.or_eq_true, not_or, Bool.not_eq_true] at hc
    exact Or.inr ⟨hc, h.symm⟩

end Sys2Proof.Machine
end

