-- ==== Sys2Proof/Laws/Frames.lean ====
section
/-!
SUPPORT. How the frames and events that an undisturbed operation shows add up, line after line (43_bus.md R190, R203), and
what one frame does as a line of an operation.
-/

namespace Sys2Proof.Machine

/-! ## What a stretch of trace shows -/

theorem tracesOf_append {xs ys : List Shown} {ev ev' : List Event} (h : tracesOf xs ev) (h' : tracesOf ys ev') :
    tracesOf (xs ++ ys) (ev ++ ev') := by
  induction xs generalizing ev with
  | nil =>
    obtain rfl : ev = [] := h
    exact h'
  | cons x xs ih =>
    cases x with
    | out e =>
      obtain ⟨r, rfl, hr⟩ := h
      exact ⟨r ++ ev', rfl, ih hr⟩
    | frame b =>
      obtain ⟨n, r, rfl, hr⟩ := h
      exact ⟨n, r ++ ev', List.append_assoc .., ih hr⟩

theorem shows_same {s t : State} (h : t.trace = s.trace) : Shows s t [] :=
  ⟨[], by rw [h, List.append_nil], rfl⟩

theorem shows_trans {s t u : State} {xs ys : List Shown} (h : Shows s t xs) (h' : Shows t u ys) : Shows s u (xs ++ ys) := by
  obtain ⟨ev, h1, h2⟩ := h
  obtain ⟨ev', h1', h2'⟩ := h'
  exact ⟨ev ++ ev', by rw [h1', h1, List.append_assoc], tracesOf_append h2 h2'⟩

theorem shows_event {s t : State} {e : Event} (h : t.trace = s.trace ++ [e]) : Shows s t [.out e] :=
  ⟨[e], h, [], rfl, rfl⟩

theorem shows_frame {s t : State} {n : Nat} {bytes : List Byte} (h : t.trace = s.trace ++ frameEvents n bytes) :
    Shows s t [.frame bytes] :=
  ⟨_, h, n, [], (List.append_nil _).symm, rfl⟩

/-- What is shown depends on the traces alone. -/
theorem shows_congr {s s' t t' : State} {xs : List Shown} (h : Shows s t xs) (hs : s'.trace = s.trace)
    (ht : t'.trace = t.trace) : Shows s' t' xs := by
  obtain ⟨ev, h1, h2⟩ := h
  exact ⟨ev, by rw [hs, ht, h1], h2⟩

/-- A register address goes over the bus high byte first (R102). -/
theorem addrBytes_eq (a : ChipAddr) : addrBytes a = [a.extractLsb' 8 8, a.extractLsb' 0 8] :=
  rfl

/-! ## Operations in a quiet state whose busy line clears -/

/-- The state but for what frames consume and leave. -/
def State.core (s : State) : State :=
  { s with
    rsleep := false, cs := .deasserted, trace := [], busyIn := [], chipIn := [], draws := 0, busData := [] }

/-- Whether a frame is among what is shown. -/
def HasFrame (xs : List Shown) : Prop := ∃ b, Shown.frame b ∈ xs

theorem hasFrame_append {xs ys : List Shown} : HasFrame (xs ++ ys) ↔ HasFrame xs ∨ HasFrame ys := by
  simp [HasFrame, exists_or]

/-- From s the operation ends normally in t with answer a; nothing disturbed it, and it showed this. -/
structure Ran {α : Type} (m : Op α) (s : State) (a : α) (t : State) (items : List Shown) : Prop where
  ends : m s = .ok a t
  shows : Shows s t items
  quiet : t.quiet
  clears : t.busyClears
  rsleep : (s.rsleep = false → t.rsleep = false) ∧ (HasFrame items → t.rsleep = false)
  cs : (s.cs = .deasserted → t.cs = .deasserted) ∧ (HasFrame items → t.cs = .deasserted)

theorem ran_bind {α β : Type} {m : Op α} {g : α → Op β} {s t u : State} {a : α} {b : β} {xs ys : List Shown}
    (h : Ran m s a t xs) (h' : Ran (g a) t b u ys) : Ran (m >>= g) s b u (xs ++ ys) := by
  refine ⟨by rw [bind_ok h.ends]; exact h'.ends, shows_trans h.shows h'.shows, h'.quiet, h'.clears,
    ⟨fun hs => h'.rsleep.1 (h.rsleep.1 hs), fun hf => ?_⟩, ⟨fun hs => h'.cs.1 (h.cs.1 hs), fun hf => ?_⟩⟩
  · exact (hasFrame_append.mp hf).elim (fun h1 => h'.rsleep.1 (h.rsleep.2 h1)) h'.rsleep.2
  · exact (hasFrame_append.mp hf).elim (fun h1 => h'.cs.1 (h.cs.2 h1)) h'.cs.2

theorem ran_cast {α : Type} {m : Op α} {s t : State} {a : α} {xs ys : List Shown} (h : Ran m s a t xs) (hx : xs = ys) :
    Ran m s a t ys :=
  hx ▸ h

theorem ran_pure {α : Type} {s : State} (a : α) (hq : s.quiet) (hb : s.busyClears) : Ran (pure a : Op α) s a s [] :=
  ⟨rfl, shows_same rfl, hq, hb, by simp [HasFrame], by simp [HasFrame]⟩

theorem ran_rd {α : Type} {s : State} (f : State → α) (hq : s.quiet) (hb : s.busyClears) : Ran (rd f) s (f s) s [] :=
  ⟨rfl, shows_same rfl, hq, hb, by simp [HasFrame], by simp [HasFrame]⟩

/-- An interaction point in front changes nothing. -/
theorem ran_tau {β : Type} {g : Unit → Op β} {s t : State} {b : β} {xs : List Shown} (hq : s.quiet)
    (h : Ran (g ()) s b t xs) : Ran (tau >>= g) s b t xs :=
  ⟨by rw [tau_bind_quiet hq]; exact h.ends, h.shows, h.quiet, h.clears, h.rsleep, h.cs⟩

/-- A line that writes state and shows nothing. -/
theorem ran_upd {s : State} {f : State → State} (hq : (f s).quiet) (hb : (f s).busyClears) (ht : (f s).trace = s.trace)
    (hr : (f s).rsleep = s.rsleep) (hc : (f s).cs = s.cs) : Ran (upd f) s () (f s) [] :=
  ⟨rfl, shows_same ht, hq, hb, by simp [hr, HasFrame], by simp [hc, HasFrame]⟩

/-- A line that shows one event. -/
theorem ran_event {s : State} {f : State → State} {e : Event} (hq : (f s).quiet) (hb : (f s).busyClears)
    (ht : (f s).trace = s.trace ++ [e]) (hr : (f s).rsleep = s.rsleep) (hc : (f s).cs = s.cs) :
    Ran (upd f) s () (f s) [.out e] :=
  ⟨rfl, shows_event ht, hq, hb, by simp [hr, HasFrame], by simp [hc, HasFrame]⟩

theorem core_rcfg {s t : State} (h : t.core = s.core) : t.rcfg = s.rcfg :=
  show t.core.rcfg = s.core.rcfg by rw [h]

/-- What frames leave alone is all that the core shows. -/
theorem eq_of_core (s : State) : s = { s.core with
    rsleep := s.rsleep, cs := s.cs, trace := s.trace, busyIn := s.busyIn, chipIn := s.chipIn, draws := s.draws
    busData := s.busData } := rfl

theorem busyClears_now {s : State} (h : s.busyClears) : ∃ n, s.busyNow = some n := by
  unfold State.busyNow
  cases hb : s.busyIn with
  | nil => exact ⟨_, rfl⟩
  | cons b r =>
    have := h b (by simp [hb])
    cases b with
    | none => exact absurd rfl this
    | some n => exact ⟨n, rfl⟩

theorem frameDone_quiet {s : State} (hq : s.quiet) (op : Byte) (out : List Byte) (st : Bool) (nin n : Nat) :
    (frameDone op out st nin n s).quiet := by
  rw [frameDone_eq]
  unfold State.quiet State.afterBusy
  cases s.busyIn <;> exact hq

theorem frameDone_clears {s : State} (hb : s.busyClears) (op : Byte) (out : List Byte) (st : Bool) (nin n : Nat) :
    (frameDone op out st nin n s).busyClears := by
  rw [frameDone_eq]
  unfold State.busyClears State.afterBusy
  cases h : s.busyIn with
  | nil => simp
  | cons b r => exact fun x hx => hb x (by rw [h]; exact List.mem_cons_of_mem _ hx)

theorem frameDone_core (op : Byte) (out : List Byte) (st : Bool) (nin n : Nat) (s : State) :
    (frameDone op out st nin n s).core = s.core := by
  rw [frameDone_eq]
  unfold State.core State.afterBusy
  cases s.busyIn <;> rfl

/-- One frame. -/
theorem ran_frame {s : State} (hq : s.quiet) (hb : s.busyClears) (op : Byte) (out : List Byte) (st : Bool) (nin : Nat) :
    ∃ t, Ran (busFrame op out st nin) s (frameData op out st nin s) t [.frame (frameOut op out st nin)]
      ∧ t.core = s.core := by
  obtain ⟨n, hn⟩ := busyClears_now hb
  exact ⟨_, ⟨busFrame_quiet hq hn .., shows_frame (n := n) rfl, frameDone_quiet hq .., frameDone_clears hb op out st nin n,
    ⟨fun _ => rfl, fun _ => rfl⟩, ⟨fun _ => rfl, fun _ => rfl⟩⟩, frameDone_core ..⟩

/-- One bare command. -/
theorem ran_bcmd {s : State} (hq : s.quiet) (hb : s.busyClears) (op : Byte) (out : List Byte) :
    ∃ t, Ran (bcmdOp op out) s () t [.frame (op :: out)] ∧ t.core = s.core := by
  obtain ⟨t, h, he⟩ := ran_frame hq hb op out false 0
  refine ⟨t, ?_, he⟩
  have h2 := ran_bind h (g := fun _ => pure ()) (ran_pure () h.quiet h.clears)
  unfold bcmdOp
  convert h2 using 1
  simp [frameOut]

/-- A bare command whose payload is read from RCFG. -/
theorem ran_bcmd_rcfg {s : State} (hq : s.quiet) (hb : s.busyClears) (op : Byte) (f : Rcfg → List Byte) :
    ∃ t, Ran (rd State.rcfg >>= fun r => bcmdOp op (f r)) s () t [.frame (op :: f s.rcfg)] ∧ t.core = s.core := by
  obtain ⟨t, h, he⟩ := ran_bcmd hq hb op (f s.rcfg)
  exact ⟨t, ran_bind (ran_rd _ hq hb) h, he⟩

end Sys2Proof.Machine
end

