-- ==== Sys2Proof/Laws/Scheduler.lean ====
section
/-!
SUPPORT. What the queue primitives do: unlink, the insertion, and lines 3 to 9 of SCHED as a whole (41_scheduler.md R137 to
R141), with what they keep of the invariants (10_state.md R28 to R30).
-/

namespace Sys2Proof.Machine

theorem queued_iff (s : State) (j : JobId) : s.queued j = true ↔ j ∈ s.q := by
  simp [State.queued]

/-! ## unlink (R137) -/

theorem filter_ne_of_not_mem {j : JobId} {q : List JobId} (h : j ∉ q) : q.filter (· != j) = q := by
  rw [List.filter_eq_self]
  intro a ha
  simp only [bne_iff_ne, ne_eq]
  exact fun he => h (he ▸ ha)

theorem unlink_q (s : State) (j : JobId) : (s.unlink j).q = s.q.filter (· != j) := by
  unfold State.unlink
  split
  · rfl
  · rename_i h
    exact (filter_ne_of_not_mem fun hm => h ((queued_iff s j).mpr hm)).symm

theorem unlink_exactCnt (s : State) (j : JobId) :
    (s.unlink j).exactCnt = if s.queued j && !flApprox (s.job j).fl then s.exactCnt - 1 else s.exactCnt := by
  unfold State.unlink
  cases s.queued j <;> cases flApprox (s.job j).fl <;> rfl

theorem unlink_not_mem (s : State) (j : JobId) : j ∉ (s.unlink j).q := by
  rw [unlink_q]
  simp

@[simp] theorem unlink_job (s : State) (j k : JobId) : (s.unlink j).job k = s.job k := by
  simp [State.job]

theorem unlink_of_not_mem {s : State} {j : JobId} (h : j ∉ s.q) : s.unlink j = s := by
  unfold State.unlink
  rw [if_neg fun hc => h ((queued_iff s j).mp hc)]

/-- The head of a queue without duplicates leaves its tail. -/
theorem filter_head {h : JobId} {rest : List JobId} (hn : (h :: rest).Nodup) : (h :: rest).filter (· != h) = rest := by
  rw [List.filter_cons_of_neg (by simp)]
  exact filter_ne_of_not_mem (List.nodup_cons.mp hn).1

/-! ## The insertion (R139) -/

theorem insertBefore_congr {f g : JobId → Tick} {j : JobId} {dl : Tick} {q : List JobId} (h : ∀ e ∈ q, f e = g e) :
    insertBefore f j dl q = insertBefore g j dl q := by
  induction q with
  | nil => rfl
  | cons e rest ih =>
    simp only [insertBefore, h e (by simp)]
    rw [ih fun x hx => h x (List.mem_cons_of_mem _ hx)]

theorem insertBefore_perm (f : JobId → Tick) (j : JobId) (dl : Tick) (q : List JobId) :
    (insertBefore f j dl q).Perm (j :: q) := by
  induction q with
  | nil => exact List.Perm.refl _
  | cons e rest ih =>
    simp only [insertBefore]
    split
    · exact List.Perm.refl _
    · exact (ih.cons e).trans (List.Perm.swap j e rest)

theorem mem_insertBefore {f : JobId → Tick} {j k : JobId} {dl : Tick} {q : List JobId} :
    k ∈ insertBefore f j dl q ↔ k = j ∨ k ∈ q := by
  rw [(insertBefore_perm f j dl q).mem_iff, List.mem_cons]

theorem insertBefore_nodup {f : JobId → Tick} {j : JobId} {dl : Tick} {q : List JobId} (hj : j ∉ q) (hq : q.Nodup) :
    (insertBefore f j dl q).Nodup :=
  (insertBefore_perm f j dl q).nodup_iff.mpr (List.nodup_cons.mpr ⟨hj, hq⟩)

/-! ## The job records -/

theorem storePut_jobs_canonical {s : State} (h : storeCanonical JobRec.reset s.jobs) (j : JobId) (r : JobRec) :
    storeCanonical JobRec.reset (s.setJob j r).jobs :=
  storePut_canonical _ _ h

theorem writeJob_self {s : State} (h : storeCanonical JobRec.reset s.jobs) (j : JobId) (dl : Tick) (cb : CbId)
    (fl : FlagSet) : (s.writeJob j dl cb fl).job j = { s.job j with dl := dl, cb := cb, fl := fl } :=
  job_setJob_self h _ _

theorem writeJob_other (s : State) {j k : JobId} (dl : Tick) (cb : CbId) (fl : FlagSet) (hk : k ≠ j) :
    (s.writeJob j dl cb fl).job k = s.job k :=
  job_setJob_other s _ hk

theorem writeExt_self {s : State} (h : storeCanonical JobRec.reset s.jobs) (j : JobId) (xdl : XTime) (xcb : CbId) :
    (s.writeExt j xdl xcb).job j = { s.job j with xdl := xdl, xcb := xcb } :=
  job_setJob_self h _ _

theorem writeExt_other (s : State) {j k : JobId} (xdl : XTime) (xcb : CbId) (hk : k ≠ j) :
    (s.writeExt j xdl xcb).job k = s.job k :=
  job_setJob_other s _ hk

/-! ## Lines 3 to 9 of SCHED (R136) -/

theorem schedule_jobs (s : State) (now : Tick) (j : JobId) (dl : Tick) (cb : CbId) (fl : FlagSet) :
    (s.schedule now j dl cb fl).jobs
      = ((s.unlink j).writeJob j (normalise now dl fl).1 cb (normalise now dl fl).2).jobs := rfl

theorem schedule_job_self {s : State} (h : storeCanonical JobRec.reset s.jobs) (now : Tick) (j : JobId) (dl : Tick)
    (cb : CbId) (fl : FlagSet) :
    (s.schedule now j dl cb fl).job j
      = { s.job j with dl := (normalise now dl fl).1, cb := cb, fl := (normalise now dl fl).2 } := by
  have h1 : storeCanonical JobRec.reset (s.unlink j).jobs := by simpa using h
  have := writeJob_self h1 j (normalise now dl fl).1 cb (normalise now dl fl).2
  rw [unlink_job] at this
  exact this

theorem schedule_job_other (s : State) (now : Tick) {j k : JobId} (dl : Tick) (cb : CbId) (fl : FlagSet) (hk : k ≠ j) :
    (s.schedule now j dl cb fl).job k = s.job k := by
  have := writeJob_other (s.unlink j) (normalise now dl fl).1 cb (normalise now dl fl).2 hk
  rw [unlink_job] at this
  exact this

theorem schedule_q (s : State) (now : Tick) (j : JobId) (dl : Tick) (cb : CbId) (fl : FlagSet) :
    (s.schedule now j dl cb fl).q = insertBefore s.dlOf j (normalise now dl fl).1 (s.q.filter (· != j)) := by
  have h1 : (s.schedule now j dl cb fl).q
      = insertBefore (fun e => (((s.unlink j).writeJob j (normalise now dl fl).1 cb (normalise now dl fl).2).job e).dl) j
          (normalise now dl fl).1 (s.unlink j).q := rfl
  rw [h1, unlink_q]
  refine insertBefore_congr fun e he => ?_
  have hne : e ≠ j := by simpa using (List.mem_filter.mp he).2
  show _ = (s.job e).dl
  rw [writeJob_other _ _ _ _ hne, unlink_job]

theorem schedule_exactCnt (s : State) (now : Tick) (j : JobId) (dl : Tick) (cb : CbId) (fl : FlagSet) :
    (s.schedule now j dl cb fl).exactCnt
      = if flApprox fl then (s.unlink j).exactCnt else (s.unlink j).exactCnt + 1 := by
  have h1 : (s.schedule now j dl cb fl).exactCnt
      = if flApprox (normalise now dl fl).2 then (s.unlink j).exactCnt else (s.unlink j).exactCnt + 1 := rfl
  rw [h1, flApprox_normalise]

theorem schedule_stores {s : State} (h : StoreInv s) (now : Tick) (j : JobId) (dl : Tick) (cb : CbId) (fl : FlagSet) :
    StoreInv (s.schedule now j dl cb fl) := by
  refine ⟨by simpa using h.1, ?_⟩
  rw [schedule_jobs]
  exact storePut_canonical _ _ (by simpa using h.2)

/-! ## The exact-counter (R30) -/

/-- EXACT_CNT counts the exact entries, and no job is queued twice: SchedulerInv without its premise on FAULT. -/
def QueueCounted (s : State) : Prop :=
  s.q.Nodup ∧ s.exactCnt = BitVec.ofNat CNT_W s.exactEntries.length

theorem unlink_counted {s : State} (h : QueueCounted s) (j : JobId) : QueueCounted (s.unlink j) := by
  obtain ⟨hn, hc⟩ := h
  refine ⟨by rw [unlink_q]; exact hn.filter _, ?_⟩
  rw [unlink_exactCnt]
  by_cases hj : j ∈ s.q
  · have hq : s.queued j = true := (queued_iff s j).mpr hj
    have hp : s.q.Perm (j :: s.q.filter (· != j)) := by
      refine (List.perm_cons_erase hj).trans ?_
      rw [hn.erase_eq_filter]
    have hl := (hp.filter fun k => !flApprox (s.job k).fl).length_eq
    have he : (s.unlink j).exactEntries = (s.q.filter (· != j)).filter fun k => !flApprox (s.job k).fl := by
      unfold State.exactEntries
      rw [unlink_q]
      simp
    rw [he, hq]
    cases ha : flApprox (s.job j).fl with
    | true =>
      rw [List.filter_cons_of_neg (by simp [ha])] at hl
      simp only [Bool.not_true, Bool.and_false, Bool.false_eq_true, if_false]
      rw [hc, ← hl]
      rfl
    | false =>
      rw [List.filter_cons_of_pos (by simp [ha]), List.length_cons] at hl
      simp only [Bool.not_false, Bool.and_true, if_true]
      rw [hc]
      unfold State.exactEntries
      rw [hl, BitVec.ofNat_add]
      exact BitVec.add_sub_cancel _ _
  · rw [if_neg (by simp [State.queued, hj])]
    have he : (s.unlink j).exactEntries = s.exactEntries := by rw [unlink_of_not_mem hj]
    rw [he, hc]

theorem schedule_counted {s : State} (h : QueueCounted s) (hs : StoreInv s) (now : Tick) (j : JobId) (dl : Tick)
    (cb : CbId) (fl : FlagSet) : QueueCounted (s.schedule now j dl cb fl) := by
  obtain ⟨hn, hc⟩ := unlink_counted h j
  rw [unlink_q] at hn
  have hj : j ∉ s.q.filter (· != j) := by simp
  refine ⟨by rw [schedule_q]; exact insertBefore_nodup hj hn, ?_⟩
  rw [schedule_exactCnt]
  have hp : (s.schedule now j dl cb fl).q.Perm (j :: s.q.filter (· != j)) := by
    rw [schedule_q]; exact insertBefore_perm ..
  have hl := (hp.filter fun k => !flApprox ((s.schedule now j dl cb fl).job k).fl).length_eq
  have hf : (s.q.filter (· != j)).filter (fun k => !flApprox ((s.schedule now j dl cb fl).job k).fl)
      = (s.unlink j).exactEntries := by
    unfold State.exactEntries
    rw [unlink_q]
    refine List.filter_congr fun k hk => ?_
    have hne : k ≠ j := by simpa using (List.mem_filter.mp hk).2
    rw [schedule_job_other _ _ _ _ _ hne, unlink_job]
  rw [List.filter_cons, hf, schedule_job_self hs.2] at hl
  simp only [flApprox_normalise] at hl
  unfold State.exactEntries
  cases ha : flApprox fl with
  | true => simp [ha] at hl; simp [hl, hc]
  | false => simp [ha] at hl; simp [hl, hc, BitVec.ofNat_add]

/-! ## RIRQ (R245) -/

theorem rirq_eq (s : State) :
    s.rirq = { s.schedule s.tick RJOB s.tick CB_RPROC FL_IMMED with
      irqPend := false, irqTs := s.tick, trace := s.trace ++ [.irqMask true, .irqMask false] } := by
  unfold State.rirq State.schedule State.countExact State.enqueue State.writeJob State.setJob State.unlink State.queued
    State.job State.emit
  dsimp only
  split <;> simp

theorem rirq_job_other (s : State) {k : JobId} (hk : k ≠ RJOB) : s.rirq.job k = s.job k := by
  rw [rirq_eq]
  exact schedule_job_other s s.tick s.tick CB_RPROC FL_IMMED hk

end Sys2Proof.Machine
end

