-- ==== Sys2Proof/Laws/Step.lean ====
section
/-!
SUPPORT. What SEQ's turn and the watchdog's can do: the reading of the port (60_exceptions.md R268), the expiry that is owed
when nothing else can act (42_runloop.md R176; log entry 39), and the step by whose turn it is (00_scope.md R9).
-/

namespace Sys2Proof.Machine

/-! ## The port -/

theorem readPort_closed {s : State} (h : s.portOpen = false) : readPort s = .nothing ∨ readPort s = .asleep := by
  unfold readPort
  split
  · exact .inl rfl
  · split
    · exact .inr rfl
    · simp [h]

theorem readPort_open {s : State} (h : s.portOpen = true) :
    readPort s = match s.host with
      | [] => .nothing
      | .write w :: rest => .hostWrite w { s with host := rest }
      | .cmd w :: rest => .word w { s with host := rest } := by
  have hs : s.rlState ≠ .sleeping := fun hs => by simp [State.portOpen, hs] at h
  have hf : (s.fault || s.hung) = false := by
    cases hf : s.fault <;> cases hh : s.hung <;> simp_all [State.portOpen]
  rcases hh : s.host with _ | ⟨_ | _, _⟩ <;> simp [readPort, hf, hs, h, hh]

/-! ## The watchdog's turn when nothing else is left -/

/-- Everything it can do. -/
theorem overdue_cases (s : State) :
    s.overdue = s ∨ (readPort s = .nothing ∧ s.wdArmed = true ∧ s.overdue = s.hardFault .watchdog) := by
  unfold State.overdue
  split
  · split
    · exact .inr ⟨by assumption, by assumption, rfl⟩
    · exact .inl rfl
  all_goals exact .inl rfl

theorem overdue_of_readPort {s : State} (h : readPort s ≠ .nothing) : s.overdue = s := by
  rcases overdue_cases s with h' | ⟨h', -⟩
  · exact h'
  · exact absurd h' h

theorem overdue_of_act {s : State} (h : s.portOpen = true) {a : HostAct} {rest : List HostAct} (hh : s.host = a :: rest) :
    s.overdue = s := by
  apply overdue_of_readPort
  rw [readPort_open h, hh]
  cases a <;> simp

theorem overdue_disarmed {s : State} (h : s.wdArmed = false) : s.overdue = s := by
  rcases overdue_cases s with h' | ⟨-, h', -⟩
  · exact h'
  · simp [h] at h'

@[simp] theorem State.overdue_host (s : State) : s.overdue.host = s.host := by
  rcases overdue_cases s with h | ⟨-, -, h⟩ <;> simp [h]

@[simp] theorem State.overdue_turns (s : State) : s.overdue.turns = s.turns := by
  rcases overdue_cases s with h | ⟨-, -, h⟩ <;> simp [h]

@[simp] theorem State.overdue_hung (s : State) : s.overdue.hung = s.hung := by
  rcases overdue_cases s with h | ⟨-, -, h⟩ <;> simp [h]

@[simp] theorem State.overdue_cs (s : State) : s.overdue.cs = s.cs := by
  rcases overdue_cases s with h | ⟨-, -, h⟩ <;> simp [h]

/-! ## The platform's reset (R310, R312) -/

@[simp] theorem State.platformReset_xtime (s : State) (x : BitVec (XT_W - 1)) :
    (s.platformReset x).xtime.toNat = x.toNat := by
  show (x.setWidth XT_W).toNat = x.toNat
  rw [BitVec.toNat_setWidth]
  exact Nat.mod_eq_of_lt (x.isLt.trans (by decide))

theorem State.platformReset_bound (s : State) (x : BitVec (XT_W - 1)) :
    (s.platformReset x).xtime.toNat < 2 ^ (XT_W - 1) := by
  rw [State.platformReset_xtime]
  exact x.isLt

/-! ## The step, by whose turn it is -/

theorem step_unscripted {s : State} (h : s.turns = []) : step s = seqStep s.overdue := by
  unfold step
  rw [h]

theorem step_seq {s : State} {ts : List Turn} (h : s.turns = .seq :: ts) : step s = seqStep { s with turns := ts } := by
  unfold step
  rw [h]

theorem step_turn {s : State} {t : Turn} {ts : List Turn} (h : s.turns = t :: ts) (ht : t ≠ .seq) :
    step s = .next (State.turn t { s with turns := ts }) := by
  unfold step
  rw [h]
  cases t <;> simp_all

end Sys2Proof.Machine
end

