-- ==== Sys2Proof/Tests/Slice0.lean ====
section
/-!
SUPPORT. The model's own tests: the operand checks on ill-formed terms, decoding on words written out from
30_encoding.md R85 to R87 and 95_test_vectors.md, at most two small facts for each operation, and a witness for the
hypotheses of each statement of Sys2Proof/Certificates/Slice0/Obligations.lean. Expected values are those of
95_test_vectors.md where the comment names a vector, and else hand calculation from the rule named.
-/

namespace Sys2Proof.Machine.Tests

set_option Elab.async false

/-! ## Helpers -/

/-- The state an outcome leaves; the reset state where it leaves none. -/
def after (o : Host.Outcome State Fault Refusal) : State :=
  match o with
  | .next t => t
  | .fault _ => State.reset
  | .refused _ => State.reset

/-- The reset state at tick 1000. -/
def at1000 : State := { State.reset with xtime := 1000#64 }

/-- Two queued jobs at tick 1000: job 1 approximate at 1020, job 0 exact at 1050 (V21). -/
def twoJobs : State :=
  { at1000 with q := [1#16, 0#16], exactCnt := 1#16, jobs := [(0, ⟨1050#32, 7#32, 0#3, 0#64, 0#32⟩), (1, ⟨1020#32, 8#32, 1#3, 0#64, 0#32⟩)] }

/-- One job of HOST's, exact, and a RUNSTEP inside its sleep call. -/
def asleep (t : XTime) (fl : FlagSet) : State :=
  { State.reset with
    xtime := t, q := [0#16], exactCnt := 1#16, jobs := [(0, ⟨1050#32, 7#32, fl, 0#64, 0#32⟩)]
    rlState := .sleeping, irqNest := 1#8 }

/-- A callback of HOST's is running. -/
def inCallback : State := { State.reset with rlState := .dispatching, wdArmed := true, curJob := 0#16 }

/-- A radio state with scripted answers of the busy line and of CHIP. -/
def radio (o : Rop) (busy : List (Option Nat)) (bytes : List Byte) : State :=
  { State.reset with rop := o, busyIn := busy, chipIn := bytes, irqTs := 0x10#32, rcfg := { Rcfg.reset with kind := .lora } }

/-- The operation a word decodes to under the sample parameters, if any. -/
def read (w : CmdWord) : Option Instr :=
  match decodeWith Params.sample w with
  | .ok i => some i
  | .error _ => none

/-- The check that refuses a word, if one does. -/
def refusedBy (w : CmdWord) : Option DecodeError :=
  match decodeWith Params.sample w with
  | .ok _ => none
  | .error e => some e

/-! ## WellFormed: an ill-formed term for each check -/

/-- R91, V100: 8 is the first illegal id for NJOBS = 8. -/
theorem test_refuses_sched_job :
    Instr.wellFormedWith Params.sample (.sched 8#16 0#32 0#32 0#3) = false := by decide +kernel
/-- R92: the first reserved callback id. -/
theorem test_refuses_sched_cb :
    Instr.wellFormedWith Params.sample (.sched 0#16 0#32 0xFFFFFFF0#32 0#3) = false := by decide +kernel
/-- R91: the driver record is not a host slot. -/
theorem test_refuses_cancel_job : Instr.wellFormedWith Params.sample (.cancel RJOB) = false := by decide +kernel
/-- R91. -/
theorem test_refuses_schedx_job :
    Instr.wellFormedWith Params.sample (.schedx NIL 0#64 0#32) = false := by decide +kernel
/-- R92. -/
theorem test_refuses_schedx_cb :
    Instr.wellFormedWith Params.sample (.schedx 0#16 0#64 CB_XSTEP) = false := by decide +kernel
/-- R152: the job of an extended chain is a host slot. -/
theorem test_refuses_xstep_job : Instr.wellFormedWith Params.sample (.xstep RJOB) = false := by decide +kernel
/-- R197: at least one data byte. -/
theorem test_refuses_bwreg_empty : Instr.wellFormedWith Params.sample (.bwreg 0#16 []) = false := by decide +kernel
/-- R197. -/
theorem test_refuses_wreg_empty : Instr.wellFormedWith Params.sample (.wreg 0#16 []) = false := by decide +kernel
/-- R199, R43: at most MAX_LEN bytes. -/
theorem test_refuses_bwbuf_long :
    Instr.wellFormedWith Params.sample (.bwbuf 0#8 (List.replicate 256 0#8)) = false := by decide +kernel
/-- R199. -/
theorem test_refuses_wbuf_long :
    Instr.wellFormedWith Params.sample (.wbuf 0#8 (List.replicate 256 0#8)) = false := by decide +kernel
/-- R200. -/
theorem test_refuses_brbuf_long : Instr.wellFormedWith Params.sample (.brbuf 0#8 256) = false := by decide +kernel
/-- R200. -/
theorem test_refuses_rbuf_long : Instr.wellFormedWith Params.sample (.rbuf 0#8 256) = false := by decide +kernel
/-- R226: below PMIN. -/
theorem test_refuses_txparams_low :
    Instr.wellFormedWith Params.sample (.ccTxparams (-10)) = false := by decide +kernel
/-- R226: above PMAX. -/
theorem test_refuses_txparams_high : Instr.wellFormedWith Params.sample (.ccTxparams 23) = false := by decide +kernel
/-- The largest legal operands of R91, R92 and R226. -/
theorem test_accepts_boundaries :
    Instr.wellFormedWith Params.sample (.sched 7#16 0#32 0xFFFFFFEF#32 7#3) = true
      ∧ Instr.wellFormedWith Params.sample (.ccTxparams 22) = true
      ∧ Instr.wellFormedWith Params.sample (.ccTxparams (-9)) = true := by decide +kernel
/-- The sample configuration meets R10 and R103. -/
theorem test_sample_is_legal : Params.sample.ok = true := by decide +kernel

/-! ## Decode: words written out from R85 to R87 -/

/-- V19. -/
theorem test_decode_gettick : read 0x00000000000000000000000000000001#128 = some .gettick := by decide +kernel
/-- V19. -/
theorem test_decode_getxtime : read 0x00000000000000000000000000000002#128 = some .getxtime := by decide +kernel
/-- R106, V34. -/
theorem test_decode_sched_approx :
    read 0x00000000000010000000004200030110#128 = some (.sched 3#16 0x1000#32 0x42#32 0b001#3) := by decide +kernel
/-- V34. -/
theorem test_decode_sched_immed :
    read 0x00000000000000000000000700030210#128 = some (.sched 3#16 0#32 7#32 0b010#3) := by decide +kernel
/-- V34. -/
theorem test_decode_sched_irqoff :
    read 0x00000000000020000000000900040410#128 = some (.sched 4#16 0x2000#32 9#32 0b100#3) := by decide +kernel
/-- V34. -/
theorem test_decode_sched_maxima :
    read 0x00000000FFFFFFFFFFFFFFEF00010710#128
        = some (.sched 1#16 0xFFFFFFFF#32 0xFFFFFFEF#32 0b111#3) := by decide +kernel
/-- V34. -/
theorem test_decode_cancel : read 0x00000000000000000000000000050011#128 = some (.cancel 5#16) := by decide +kernel
/-- P2 command 1. -/
theorem test_decode_schedx :
    read 0x00000001800001000000002100020012#128 = some (.schedx 2#16 0x180000100#64 0x21#32) := by decide +kernel
/-- P1 command 3. -/
theorem test_decode_runstep : read 0x00000000000000000000000000000020#128 = some .runstep := by decide +kernel
/-- R87. -/
theorem test_decode_runloop : read 0x00000000000000000000000000000021#128 = some .runloop := by decide +kernel
/-- P1 command 4. -/
theorem test_decode_cbret : read 0x00000000000000000000000000000022#128 = some .cbret := by decide +kernel
/-- P6 command 1. -/
theorem test_decode_irqdis : read 0x00000000000000000000000000000028#128 = some .irqdis := by decide +kernel
/-- P6 command 3. -/
theorem test_decode_irqen : read 0x00000000000000000000000000000029#128 = some .irqen := by decide +kernel
/-- P3 command 1. -/
theorem test_decode_rinit : read 0x00000000000000000000000000000030#128 = some .rinit := by decide +kernel
/-- P3 command 2. -/
theorem test_decode_rtx_packet : read 0x00000000000000000000000000000031#128 = some (.rtx false) := by decide +kernel
/-- V81. -/
theorem test_decode_rtx_wave : read 0x00000000000000000000000000000131#128 = some (.rtx true) := by decide +kernel
/-- R87, R93. -/
theorem test_decode_rrx_single : read 0x00000000000000000000000000000032#128 = some (.rrx false) := by decide +kernel
/-- R87, R93. -/
theorem test_decode_rrx_continuous :
    read 0x00000000000000000000000000000132#128 = some (.rrx true) := by decide +kernel
/-- P3 command 5. -/
theorem test_decode_rsleep : read 0x00000000000000000000000000000033#128 = some .rsleep := by decide +kernel
/-- R87. -/
theorem test_decode_rrand : read 0x00000000000000000000000000000034#128 = some .rrand := by decide +kernel

/-- V90. -/
theorem test_illegal_v90 : refusedBy 0x00000000000000000000000000000000#128 = some .unknownOp := by decide +kernel
/-- V91. -/
theorem test_illegal_v91 : refusedBy 0x00000000000000000000000000000003#128 = some .unknownOp := by decide +kernel
/-- V92. -/
theorem test_illegal_v92 : refusedBy 0x00000000000000000000000000000820#128 = some .reservedBits := by decide +kernel
/-- V93. -/
theorem test_illegal_v93 : refusedBy 0x00000000000000000000000000010020#128 = some .unusedField := by decide +kernel
/-- V94. -/
theorem test_illegal_v94 : refusedBy 0x0000000000000005FFFFFFF000000010#128 = some .callbackId := by decide +kernel
/-- V95. -/
theorem test_illegal_v95 : refusedBy 0x000000000000000500000001FFFE0010#128 = some .jobId := by decide +kernel
/-- V96. -/
theorem test_illegal_v96 : refusedBy 0x00000001000000000000000100000010#128 = some .unusedField := by decide +kernel
/-- V97. -/
theorem test_illegal_v97 : refusedBy 0x00000000000000050000000100000112#128 = some .unusedField := by decide +kernel
/-- V98. -/
theorem test_illegal_v98 : refusedBy 0x00000000000000000000000000000231#128 = some .unusedField := by decide +kernel
/-- V99. -/
theorem test_illegal_v99 : refusedBy 0x00000000000000000000000100000011#128 = some .unusedField := by decide +kernel
/-- V100. -/
theorem test_illegal_v100 : refusedBy 0x00000000000000000000000000080011#128 = some .jobId := by decide +kernel
/-- The table numbers bit 0 as R85 does. -/
theorem test_table_word_gettick : decodeTableWord 128 1 = some .gettick := by rfl

/-! ## The comparison engine -/

/-- V2, V3, V4, V6, V7, V8, V14, V15. -/
theorem test_sdiff_vectors :
    [sdiff 1#32 0#32, sdiff 0#32 1#32, sdiff 5#32 0xFFFFFFFB#32, sdiff 0x7FFFFFFF#32 0#32, sdiff 0x80000000#32 0#32,
      sdiff 0#32 0x80000000#32, sdiff 0x3E6#32 0x800003E7#32, sdiff 0x3E7#32 0x800003E7#32]
      = [1, -1, 10, 2147483647, -2147483648, -2147483648, 2147483647, -2147483648] := by decide +kernel
/-- V16. -/
theorem test_notlater_circle :
    notlater 0#32 0x60000000#32 = true
      ∧ notlater 0x60000000#32 0xC0000000#32 = true
      ∧ notlater 0#32 0xC0000000#32 = false := by decide +kernel
/-- V18. -/
theorem test_translation :
    xdiff 0x200000100#64 0x1FFFFFF00#64 = 512 ∧ sdiff (xt2tick 0x200000100#64) (xt2tick 0x1FFFFFF00#64) = 512 ∧
      xdiff 0x280000000#64 0x1FFFFFF00#64 = 0x80000100 ∧ sdiff 0x80000000#32 0xFFFFFF00#32 = -2147483392 ∧
      tick2xt 0x100#32 0x1FFFFFF00#64 = 0x200000100 := by decide +kernel

/-! ## Clock -/

/-- V19. -/
theorem test_gettick :
    (after (execGettick { State.reset with xtime := 0x1FFFFFFFE#64 })).trace
        = [.resp 0xFFFFFFFE#64] := by decide +kernel
/-- V19. -/
theorem test_getxtime :
    (after (execGetxtime { State.reset with xtime := 0x1FFFFFFFE#64 })).trace
        = [.resp 0x1FFFFFFFE#64] := by decide +kernel

/-! ## Scheduler -/

/-- What the scheduler vectors look at. -/
def view (s : State) : List JobId × BitVec CNT_W := (s.q, s.exactCnt)

/-- V22: a tie goes after the entry it ties with. -/
theorem test_sched_tie :
    view (after (execSched 2#16 1050#32 9#32 0#3 twoJobs)) = ([1#16, 0#16, 2#16], 2#16) := by decide +kernel
/-- V24, V26: a past deadline becomes now; the exact job is counted down when it is queued again as approximate. -/
theorem test_sched_reschedule :
    view (after (execSched 0#16 900#32 7#32 1#3 twoJobs)) = ([0#16, 1#16], 0#16)
      ∧ (after (execSched 0#16 900#32 7#32 1#3 twoJobs)).job 0#16
        = ⟨1000#32, 7#32, 3#3, 0#64, 0#32⟩ := by decide +kernel
/-- V31. -/
theorem test_sched_half_range :
    ((after (execSched 0#16 0x800003E7#32 7#32 0#3 at1000)).job 0#16).fl = 0#3
      ∧ ((after (execSched 0#16 0x800003E8#32 7#32 0#3 at1000)).job 0#16).fl = 2#3 := by decide +kernel
/-- V27. -/
theorem test_cancel_queued :
    view (after (execCancel 0#16 twoJobs)) = ([1#16], 0#16)
      ∧ (after (execCancel 0#16 twoJobs)).trace = [.irqMask true, .irqMask false, .resp 1#64] := by decide +kernel
/-- V28. -/
theorem test_cancel_absent :
    view (after (execCancel 5#16 twoJobs)) = view twoJobs
      ∧ (after (execCancel 5#16 twoJobs)).trace = [.irqMask true, .irqMask false, .resp 0#64] := by decide +kernel
/-- P2 command 1. -/
theorem test_schedx_beyond_span :
    ((after (execSchedx 2#16 0x180000100#64 0x21#32 { State.reset with xtime := 0xFFFFFF00#64 })).job 2#16)
        = ⟨0x7FFFFEFF#32, 0xFFFFFFFF#32, 1#3, 0x180000100#64, 0x21#32⟩ := by decide +kernel
/-- V47. -/
theorem test_schedx_past :
    ((after (execSchedx 2#16 0x100000100#64 0x21#32 { State.reset with xtime := 0x500000000#64 })).job 2#16)
        = ⟨0#32, 0x21#32, 3#3, 0x100000100#64, 0x21#32⟩ := by decide +kernel
/-- P2 command 2. -/
theorem test_xstep_final :
    ((after (execXstep 2#16 { State.reset with xtime := 0x17FFFFEFF#64, jobs := [(2, ⟨0x7FFFFEFF#32, 0xFFFFFFFF#32, 1#3, 0x180000100#64, 0x21#32⟩)] })).job 2#16)
        = ⟨0x80000100#32, 0x21#32, 1#3, 0x180000100#64, 0x21#32⟩ := by decide +kernel

/-! ## Run loop -/

/-- V50. -/
theorem test_runstep_empty :
    (after (execRunstep at1000)).trace = [.irqMask true, .sleepForever]
      ∧ (after (execRunstep at1000)).rlState = .sleeping := by decide +kernel
/-- V52. -/
theorem test_runstep_mode :
    (after (execRunstep twoJobs)).trace = [.irqMask true, .sleepUntil 1020#32 .exact] := by decide +kernel
/-- R177. -/
theorem test_runloop :
    (after (execRunloop at1000)).rlLoop = true
      ∧ (after (execRunloop at1000)).trace = [.irqMask true, .sleepForever] := by decide +kernel
/-- V51. -/
theorem test_sleep_reached :
    ((asleep 1050#64 0#3).sleepReturns Params.sample .reached).trace = [.irqMask false, .wdArm, .dispatch 0#16 7#32]
      ∧ ((asleep 1050#64 0#3).sleepReturns Params.sample .reached).curJob = 0#16 := by decide +kernel
/-- V54. -/
theorem test_sleep_reached_late :
    ((asleep 1053#64 0#3).sleepReturns Params.sample .reached).trace
        = [.irqMask false, .late 0#16 3, .wdArm, .dispatch 0#16 7#32]
      ∧ ((asleep 1053#64 0#3).sleepReturns Params.sample .reached).lateCnt = 1#32 := by decide +kernel
/-- V53. -/
theorem test_sleep_reached_irqoff :
    ((asleep 1050#64 4#3).sleepReturns Params.sample .reached).trace = [.wdArm, .dispatch 0#16 7#32]
      ∧ ((asleep 1050#64 4#3).sleepReturns Params.sample .reached).irqNest = 1#8 := by decide +kernel
/-- V51. -/
theorem test_sleep_interrupted :
    ((asleep 1010#64 0#3).sleepReturns Params.sample .interrupted).trace = [.irqMask false, .resp 0#64]
      ∧ ((asleep 1010#64 0#3).sleepReturns Params.sample .interrupted).q = [0#16] := by decide +kernel
/-- V53. -/
theorem test_cbret :
    (after (execCbret inCallback)).trace = [.wdDisarm, .resp 0#64]
      ∧ (after (execCbret inCallback)).curJob = NIL := by decide +kernel
/-- V56. -/
theorem test_cbret_stopped : (after (execCbret State.reset)).faultCode = 0x05#8 := by decide +kernel
/-- R165 line f3, R177. -/
theorem test_runloop_goes_on :
    ((State.sleepReturns Params.sample .interrupted { (asleep 1010#64 0#3) with rlLoop := true })).trace
        = [.irqMask false, .irqMask true, .sleepUntil 1050#32 .exact] := by decide +kernel
/-- R180, R136. -/
theorem test_sched_at_nesting_limit :
    (after (execSched 0#16 5#32 7#32 0#3 { State.reset with irqNest := 255#8 })).faultCode = 0x05#8
      ∧ (after (execSched 0#16 5#32 7#32 0#3 { State.reset with irqNest := 255#8 })).q = [] := by decide +kernel
/-- R176: no CBRET will come; the second state has a command still to come. -/
theorem test_callback_never_returns :
    (after (step inCallback)).faultCode = 0x04#8
      ∧ (after (step { inCallback with host := [.cmd 1#128] })).fault = false := by decide +kernel
/-- V55. -/
theorem test_irqdis :
    (after (execIrqdis State.reset)).trace = [.irqMask true, .resp 0#64]
      ∧ (after (execIrqdis State.reset)).irqNest = 1#8 := by decide +kernel
/-- V55. -/
theorem test_irqen :
    (after (execIrqen { State.reset with irqNest := 1#8 })).trace = [.irqMask false, .resp 0#64] := by decide +kernel
/-- V55, P6. -/
theorem test_irqen_unbalanced :
    (after (execIrqen State.reset)).faultCode = 0x05#8
      ∧ (after (execIrqen State.reset)).fault = true := by decide +kernel
/-- P3 command 3. -/
theorem test_rirq :
    (after (execRirq { State.reset with xtime := 0x10#64, irqPend := true })).job RJOB
        = ⟨0x10#32, 0xFFFFFFFE#32, 2#3, 0#64, 0#32⟩
      ∧ (after (execRirq { State.reset with xtime := 0x10#64, irqPend := true })).q = [0xFFFE#16] := by decide +kernel
/-- P3 command 3. -/
theorem test_sleep_ends_on_edge :
    (((State.envEvent .edge { State.reset with xtime := 0x10#64, rlState := .sleeping, irqNest := 1#8 }).sleepOn Params.sample)).trace
        = [.irqMask false, .irqMask true, .irqMask false, .resp 0#64] := by decide +kernel

/-! ## Bus -/

/-- The frames an operation sends from a state whose busy line is clear at once. -/
def sent (n : Nat) (m : Op Unit) : List (List Byte) :=
  busFrames (runOp m (radio .idle (List.replicate n (some 0)) [])).trace

/-- An operation that reads, without its answer. -/
def quietly (m : Op (List Byte)) : Op Unit := do
  let _ ← m

/-- V60, with one poll that reads 1. -/
theorem test_bcmd :
    (runOp (bcmdOp 0xC1#8 []) (radio .idle [some 1] [])).trace
        = [.cs .asserted, .busyPoll, .busyPoll, .xfer 0xC1#8, .cs .deasserted] := by decide +kernel
/-- V61. -/
theorem test_bread :
    sent 1 (quietly (breadOp 0x12#8 2)) = [[0x12#8, 0x00#8, 0x00#8, 0x00#8]]
      ∧ (runOp (breadOp 0x12#8 2) (radio .idle [some 0] [0x11#8, 0xA2#8, 0x00#8, 0x01#8])).busData
        = [0x00#8, 0x01#8] := by decide +kernel
/-- V62. -/
theorem test_bwreg :
    sent 1 (bwregOp Params.sample 0x0740#16 [0x34#8, 0x44#8])
        = [[0x0D#8, 0x07#8, 0x40#8, 0x34#8, 0x44#8]] := by decide +kernel
/-- V62. -/
theorem test_brreg :
    sent 1 (quietly (brregOp Params.sample 0x0740#16 2))
        = [[0x1D#8, 0x07#8, 0x40#8, 0x00#8, 0x00#8, 0x00#8]] := by decide +kernel
/-- V63. -/
theorem test_bwbuf : sent 1 (bwbufOp Params.sample 0x00#8 []) = [[0x0E#8, 0x00#8]] := by decide +kernel
/-- V63. -/
theorem test_brbuf :
    sent 1 (quietly (brbufOp Params.sample 0x10#8 0)) = [[0x1E#8, 0x10#8, 0x00#8]] := by decide +kernel
/-- V64. -/
theorem test_frame_clears_rsleep :
    (runOp (bcmdOp 0xC1#8 []) { (radio .idle [some 0] []) with rsleep := true }).rsleep = false := by decide +kernel
/-- R100, the row of that name. -/
theorem test_cc_sleep : sent 1 (ccSleep Params.sample) = [[0x84#8, 0x01#8]] := by decide +kernel
/-- R100, the row of that name. -/
theorem test_cc_standby : sent 1 (ccStandby Params.sample) = [[0x80#8, 0x00#8]] := by decide +kernel
/-- R100, the row of that name. -/
theorem test_cc_fs : sent 1 (ccFs Params.sample) = [[0xC1#8]] := by decide +kernel
/-- R100, the row of that name. -/
theorem test_cc_tx : sent 1 (ccTx Params.sample) = [[0x83#8, 0x10#8]] := by decide +kernel
/-- R100, the row of that name. -/
theorem test_cc_txcw : sent 1 (ccTxcw Params.sample) = [[0xD1#8]] := by decide +kernel
/-- R100, the row of that name. -/
theorem test_cc_rx : sent 1 (ccRx Params.sample 0xFF) = [[0x82#8, 0xFF#8]] := by decide +kernel
/-- R100, the row of that name. -/
theorem test_cc_regmode : sent 1 (ccRegmode Params.sample) = [[0x96#8, 0x01#8]] := by decide +kernel
/-- R100, the row of that name. -/
theorem test_cc_pkttype : sent 1 (ccPkttype Params.sample) = [[0x8A#8, 0x01#8]] := by decide +kernel
/-- R100, the row of that name. -/
theorem test_cc_freq : sent 1 (ccFreq Params.sample) = [[0x86#8, 0x00#8, 0x00#8, 0x00#8, 0x00#8]] := by decide +kernel
/-- R100, the row of that name. -/
theorem test_cc_modparams : sent 1 (ccModparams Params.sample) = [[0x8B#8, 0x00#8]] := by decide +kernel
/-- R100, the row of that name. -/
theorem test_cc_pktparams : sent 1 (ccPktparams Params.sample .rx) = [[0x8C#8, 0x00#8]] := by decide +kernel
/-- R100, the row of that name. -/
theorem test_cc_clrirq : sent 1 (ccClrirq Params.sample) = [[0x02#8, 0xFF#8, 0xFF#8]] := by decide +kernel
/-- R100, the row of that name. -/
theorem test_cc_irqparams :
    sent 1 (ccIrqparams Params.sample 0x0201#16) = [[0x08#8, 0x02#8, 0x01#8]] := by decide +kernel
/-- R100, the row of that name. -/
theorem test_cc_txparams : sent 1 (ccTxparams Params.sample (-9)) = [[0x8E#8, 0xF7#8]] := by decide +kernel
/-- R100, the row of that name. -/
theorem test_cc_getirq : sent 1 (quietly (ccGetirq Params.sample)) = [[0x12#8, 0#8, 0#8, 0#8]] := by decide +kernel
/-- R100, the row of that name. -/
theorem test_cc_rxbufstatus :
    sent 1 (quietly (ccRxbufstatus Params.sample)) = [[0x13#8, 0#8, 0#8, 0#8]] := by decide +kernel
/-- R100, the row of that name. -/
theorem test_cc_pktstatus : sent 1 (quietly (ccPktstatus Params.sample)) = [[0x14#8, 0#8, 0#8]] := by decide +kernel
/-- R100, the row of that name. -/
theorem test_wreg :
    sent 1 (wreg Params.sample 0x06BC#16 [1#8, 2#8]) = [[0x0D#8, 0x06#8, 0xBC#8, 1#8, 2#8]] := by decide +kernel
/-- R100, the row of that name. -/
theorem test_rreg :
    sent 1 (quietly (rreg Params.sample 0x0740#16 1)) = [[0x1D#8, 0x07#8, 0x40#8, 0#8, 0#8]] := by decide +kernel
/-- R100, the row of that name. -/
theorem test_wbuf : sent 1 (wbuf Params.sample 3#8 [9#8]) = [[0x0E#8, 3#8, 9#8]] := by decide +kernel
/-- R100, the row of that name. -/
theorem test_rbuf : sent 1 (quietly (rbuf Params.sample 0x80#8 1)) = [[0x1E#8, 0x80#8, 0#8, 0#8]] := by decide +kernel

/-! ## Radio -/

/-- P3 command 1, V78. -/
theorem test_rinit :
    (runOp (rinitOp Params.sample) (radio .idle [some 0] [0#8, 0#8, 0#8, 0#8, 0x14#8])).chipMode = .standby
      ∧ (runOp (rinitOp Params.sample) (radio .idle [some 0] [0#8, 0#8, 0#8, 0#8, 0x15#8])).faultCode
        = 0x01#8 := by decide +kernel
/-- V78: no reset line. -/
theorem test_rinit_no_line :
    (runOp (rinitOp (Params.mk 1 1 0 1 0 false 0#16 0 [] (fun _ => 0#8) 0#8 0 0 0 0 0 (fun _ => 0) (fun _ => 0#32)
        (fun _ _ => 0#32) 0#32 (fun _ _ => 0#32) 0#8 0#8 0#8 false [] [] [] [] 0 0 0#16 1#16 2#16 4#16 (fun _ => 0#16)
        (fun _ => 0) 0#16 0#16 0#16 0#16 (fun _ => 0#8) 0 (fun _ _ => 0#8) 0 (fun _ _ => 0#8) 0 (fun _ _ => 0#8) 0
        (fun _ _ => 0#8) 0 (fun _ => 0) 0 (fun t => t) 0 (fun _ _ => 0#8) 0 (fun _ _ => 0#16) (fun _ => 0#16)))
      (radio .idle [] [])).trace = [.resp 0#64] := by decide +kernel
/-- V81. -/
theorem test_rtx_wave :
    (sent 11 (rtxOp Params.sample true)).length = 11
      ∧ (runOp (rtxOp Params.sample true) (radio .idle (List.replicate 11 (some 0)) [])).rop
        = .txcw := by decide +kernel
/-- P3 command 2. -/
theorem test_rtx_packet :
    (sent 12 (rtxOp Params.sample false)).length = 12
      ∧ (runOp (rtxOp Params.sample false) (radio .idle (List.replicate 12 (some 0)) [])).ant
        = .tx := by decide +kernel
/-- V73. -/
theorem test_power_clamp :
    [clampPower Params.sample 30#8, clampPower Params.sample 0xEC#8, clampPower Params.sample 22#8, clampPower Params.sample 0xF7#8]
        = [22, -9, 22, -9] := by decide +kernel
/-- V80. -/
theorem test_rrx_continuous :
    (sent 11 (rrxOp Params.sample true)).length = 11
      ∧ (runOp (rrxOp Params.sample true) (radio .idle (List.replicate 11 (some 0)) [])).rop
        = .rxc := by decide +kernel
/-- V79: RXTIME is one tick past. -/
theorem test_rrx_late_start :
    (otherEvents (runOp (rrxOp Params.sample false) { (radio .idle (List.replicate 12 (some 0)) []) with xtime := 1#64 }).trace)
        = [.irqMask true, .warn 0x01#8, .pinAnt .rx, .irqMask false, .resp 0#64] := by decide +kernel
/-- V72, the first RSLEEP. -/
theorem test_rsleep :
    sent 1 (rsleepOp Params.sample) = [[0x84#8, 0x01#8]]
      ∧ (runOp (rsleepOp Params.sample) (radio .idle [some 0] [])).rsleep = true := by decide +kernel
/-- V72, the second. -/
theorem test_rsleep_elided :
    (runOp (rsleepOp Params.sample) { State.reset with rsleep := true, chipMode := .sleep }).trace
        = [.resp 0#64] := by decide +kernel
/-- R242, R62: RAND_N = 4 bytes, the first received most significant. -/
theorem test_rrand :
    (runOp (rrandOp Params.sample) (radio .idle (List.replicate 6 (some 0)) (List.replicate 14 0#8 ++ [1#8, 2#8, 3#8, 4#8]))).rcfg.rand
        = 0x01020304 := by decide +kernel
/-- V70. -/
theorem test_rproc_tx :
    (runOp (rprocOp Params.sample) (radio .tx [some 0] [0#8, 0#8, 0x00#8, 0x01#8])).rcfg.txend = 0xFFFFFFE5#32
      ∧ otherEvents (runOp (rprocOp Params.sample) (radio .tx [some 0] [0#8, 0#8, 0x00#8, 0x01#8])).trace
        = [.pinAnt .off, .complete .tx] := by decide +kernel
/-- V76 (RX done under TX), V77. -/
theorem test_rproc_neither :
    (runOp (rprocOp Params.sample) (radio .tx [some 0] [0#8, 0#8, 0x00#8, 0x02#8])).faultCode = 0x02#8
      ∧ (runOp (rprocOp Params.sample) (radio .idle [] [])).faultCode = 0x03#8 := by decide +kernel

/-- V74: interrupt status RXDONE, packet status, length 3 at offset 0x80, three bytes. -/
def received : State :=
  runOp (rprocOp Params.sample)
    { radio .rxs [some 0, some 0, some 0, some 0]
        [0#8, 0#8, 0x00#8, 0x02#8, 0#8, 0#8, 0x2A#8, 0#8, 0#8, 0x03#8, 0x80#8, 0#8, 0#8, 0#8, 0xAA#8, 0xBB#8, 0xCC#8] with
      irqTs := 0x100#32 }

/-- V74. -/
theorem test_rproc_rx_times :
    received.rcfg.rxend = 0xFFFFFFD4#32
      ∧ received.rcfg.rxstart = 0xFFFFEC4C#32
      ∧ received.rcfg.datalen = 3#8 := by decide +kernel
/-- V74. -/
theorem test_rproc_rx_frame :
    Memory.readFrom received.frame 0 4 = [0xAA#8, 0xBB#8, 0xCC#8, 0x00#8]
      ∧ busFrames received.trace
        = [[0x12#8, 0#8, 0#8, 0#8], [0x14#8, 0#8, 0#8], [0x13#8, 0#8, 0#8, 0#8], [0x1E#8, 0x80#8, 0#8, 0#8, 0#8, 0#8]] := by decide +kernel
/-- R41, R219 c: SF and CR are read only when KIND = LORA. -/
theorem test_fsk_reads_no_sf_cr :
    (Rcfg.modKey { Rcfg.reset with kind := .fsk, sf := 9#4, cr := 2#4 }).sf = none
      ∧ (Rcfg.airKey { Rcfg.reset with kind := .fsk, sf := 9#4, cr := 2#4 }).cr = none
      ∧ (Rcfg.modKey { Rcfg.reset with kind := .lora, sf := 9#4, cr := 2#4 })
        = ⟨.lora, some 9#4, 0#4, some 2#4, false⟩ := by decide +kernel
/-- The canonical form: log entry 5. -/
theorem test_frame_write_default_unlists :
    Memory.write [(0, 1#8), (2, 5#8)] 0 0#8 = [(2, 5#8)]
      ∧ Memory.write [(2, 5#8)] 1 7#8 = [(1, 7#8), (2, 5#8)] := by decide +kernel


/-! ## Witnesses: for each statement with hypotheses, a state and operands that meet them together -/

/-- Slot 0 holds the final entry of an extended chain that is due, or its intermediate entry. -/
def chain (cb : CbId) : State :=
  { State.reset with
    xtime := 1050#64, q := [0#16], jobs := [(0, ⟨1050#32, cb, 1#3, 0x180000100#64, 0x21#32⟩)]
    rlState := .sleeping, irqNest := 1#8, turns := [.sleepReturns .reached] }

/-- A callback of HOST's hangs in a frame; HOST has a command to come. -/
def hanging (ts : List Turn) : State :=
  { State.reset with
    rlState := .dispatching, wdArmed := true, hung := true, cs := .asserted, host := [.cmd 1#128], turns := ts }

/-- A completion interrupt has queued RJOB, and a RUNSTEP is inside its sleep call. -/
def completion : State :=
  { State.reset with
    xtime := 16#64, q := [RJOB], exactCnt := 1#16, jobs := [(0xFFFE, ⟨16#32, CB_RPROC, 2#3, 0#64, 0#32⟩)]
    rlState := .sleeping, irqNest := 1#8, turns := [.sleepReturns .reached] }

/-- A RUNSTEP of RUNLOOP inside its sleep call, which an event ends. -/
def looping (pend : Bool) : State :=
  { twoJobs with
    rlState := .sleeping, rlLoop := true, irqNest := 1#8, irqPend := pend, turns := [.sleepReturns .interrupted] }

/-- HOST's port with one act in front. -/
def offers (a : HostAct) (ts : List Turn) : State := { State.reset with host := [a], turns := ts }

/-- DecodeOfEncode: the largest legal operands of SCHED on slot 0, and RRX in continuous mode. -/
theorem witness_DecodeOfEncode :
    (Instr.sched 0#16 0xFFFFFFFF#32 0xFFFFFFEF#32 7#3).wellFormed = true
      ∧ encode (.sched 0#16 0xFFFFFFFF#32 0xFFFFFFEF#32 7#3) = some 0x00000000FFFFFFFFFFFFFFEF00000710#128
      ∧ (Instr.rrx true).wellFormed = true
      ∧ encode (.rrx true) = some 0x00000000000000000000000000000132#128 := by decide +kernel

theorem witness_EncodeOfDecode :
    decode 0x00000000FFFFFFFFFFFFFFEF00000710#128 = .ok (.sched 0#16 0xFFFFFFFF#32 0xFFFFFFEF#32 7#3) := by rfl

/-- IllegalWordRefused: with no turn scripted and with SEQ's. -/
theorem witness_IllegalWordRefused :
    (offers (.cmd 0#128) []).turns = [] ∧ (offers (.cmd 0#128) []).portOpen = true
      ∧ (offers (.cmd 0#128) []).host = [.cmd 0#128]
      ∧ (offers (.cmd 0#128) [.seq]).turns = [.seq] ∧ (offers (.cmd 0#128) [.seq]).portOpen = true
      ∧ (offers (.cmd 0#128) [.seq]).host = [.cmd 0#128]
      ∧ decode 0#128 = .error .unknownOp := ⟨rfl, rfl, rfl, rfl, rfl, rfl, rfl⟩

theorem witness_StepRunsDecoded :
    (offers (.cmd 1#128) [.seq]).turns = [.seq] ∧ (offers (.cmd 1#128) [.seq]).portOpen = true
      ∧ (offers (.cmd 1#128) [.seq]).host = [.cmd 1#128] ∧ decode 1#128 = .ok .gettick := ⟨rfl, rfl, rfl, rfl⟩

/-- PortNotReadWhileClosed: after a fault, asleep, hung, and under RUNLOOP at rest; two of them with their step. -/
theorem witness_PortNotReadWhileClosed :
    NotTaken { offers (.cmd 1#128) [] with fault := true }
      ∧ NotTaken { offers (.cmd 1#128) [] with rlState := .sleeping }
      ∧ NotTaken { offers (.cmd 1#128) [] with hung := true }
      ∧ NotTaken { offers (.cmd 1#128) [] with rlLoop := true }
      ∧ step { offers (.cmd 1#128) [] with fault := true } = .next { offers (.cmd 1#128) [] with fault := true }
      ∧ step { offers (.cmd 1#128) [] with hung := true } = .next { offers (.cmd 1#128) [] with hung := true } :=
  ⟨.inl rfl, .inr (.inr (.inl rfl)), .inr (.inl rfl), .inr (.inr (.inr ⟨rfl, rfl⟩)), rfl, rfl⟩

/-- AcceptanceTable: a command with its lines, and a state for each row of the table. -/
theorem witness_AcceptanceTable :
    commandLines .gettick = some gettickOp ∧ State.reset.acceptance (classOf .gettick) = .accepted
      ∧ inCallback.acceptance (classOf .cbret) = .accepted ∧ inCallback.acceptance (classOf .runloop) = .assertFails
      ∧ State.reset.acceptance (classOf .cbret) = .assertFails ∧ NotTaken { State.reset with rlLoop := true }
      ∧ State.reset.fault = false ∧ State.reset.hung = false ∧ State.reset.rlState = .stopped
      ∧ State.reset.rlLoop = false ∧ inCallback.fault = false ∧ inCallback.hung = false
      ∧ inCallback.rlState = .dispatching :=
  ⟨rfl, rfl, rfl, rfl, rfl, .inr (.inr (.inr ⟨rfl, rfl⟩)), rfl, rfl, rfl, rfl, rfl, rfl, rfl⟩

theorem witness_HardFaultEntry :
    State.reset.fault = false ∧ State.fault { State.reset with fault := true, faultCode := 1#8 } = true := by decide +kernel

/-- FaultHaltsEverything: an edge is the step. -/
theorem witness_FaultHaltsEverything :
    State.fault { State.reset with fault := true, turns := [.env .edge] } = true
      ∧ step { State.reset with fault := true, turns := [.env .edge] }
          = .next { State.reset with fault := true, irqPend := true }
      ∧ State.turns { State.reset with fault := true, turns := [.env .edge] } = [.env .edge] := ⟨rfl, rfl, rfl⟩

theorem witness_PlatformResetValues :
    State.turns { inCallback with fault := true, turns := [.platformReset 5#63] } = [.platformReset 5#63] := by rfl

/-- SdiffIsSignedDifference: D at 2^31 - 1 and at 2^31. -/
theorem witness_SdiffIsSignedDifference :
    (((0x7FFFFFFF#32).toNat : Int) - ((0#32).toNat : Int)) % 2 ^ 32 < 2 ^ 31
      ∧ 2 ^ 31 ≤ (((0x80000000#32).toNat : Int) - ((0#32).toNat : Int)) % 2 ^ 32 := by decide +kernel

/-- SdiffLaws: the distance that laws 2 and 3 name at both ends, and a pair for law 4. -/
theorem witness_SdiffLaws :
    (0 : Int) ≤ 2 ^ 31 - 1 ∧ (1 : Int) ≤ 2 ^ 31 ∧ sdiff 0x7FFFFFFF#32 0#32 ≠ -2 ^ 31 := by decide +kernel

theorem witness_HalfRangeComparesAsPast : 0x92345678#32 - 0x12345678#32 = 0x80000000#32 := by decide +kernel

/-- NotlaterOrdersOneWindow: the two ends of a window. -/
theorem witness_NotlaterOrdersOneWindow :
    (0 : Nat) ≤ 2 ^ 31 - 1 ∧ 2 ^ 31 - 1 ≤ 2 ^ 31 - 1
      ∧ sdiff (tickAdd 0xFFFFFFFF#32 (2 ^ 31 - 1)) (tickAdd 0xFFFFFFFF#32 0) = 2 ^ 31 - 1 := by decide +kernel

/-- TranslationNearPresent: both ends of its range, across the wrap of the low half. -/
theorem witness_TranslationNearPresent :
    -2 ^ 31 ≤ xdiff 0x17FFFFF00#64 0x1FFFFFF00#64 ∧ xdiff 0x17FFFFF00#64 0x1FFFFFF00#64 ≤ 2 ^ 31 - 1
      ∧ xdiff 0x17FFFFF00#64 0x1FFFFFF00#64 = -2 ^ 31
      ∧ xdiff 0x27FFFFEFF#64 0x1FFFFFF00#64 = 2 ^ 31 - 1
      ∧ 0 ≤ xdiff 0x1FFFFFF00#64 0x1FFFFFF00#64
      ∧ xdiff 0x27FFFFEFF#64 0x1FFFFFF00#64 ≤ (SAFE_SPAN : Int)
      ∧ ¬(-2 ^ 31 ≤ xdiff 0x27FFFFF00#64 0x1FFFFFF00#64 ∧ xdiff 0x27FFFFF00#64 0x1FFFFFF00#64 ≤ 2 ^ 31 - 1)
      ∧ ¬(0 < xdiff 0#64 0#64 ∧ xdiff 0#64 0#64 ≤ (SAFE_SPAN : Int)) := by decide +kernel

/-- TickExtensionUnique: the value V18 gives. -/
theorem witness_TickExtensionUnique :
    -2 ^ 31 ≤ (0x200000100 : Int) - (0x1FFFFFF00#64).toNat ∧ (0x200000100 : Int) - (0x1FFFFFF00#64).toNat ≤ 2 ^ 31 - 1
      ∧ BitVec.ofInt 32 0x200000100 = 0x100#32 := by decide +kernel

theorem witness_ClockReadsAnswer : at1000.acceptance .plain = .accepted ∧ at1000.quiet := by decide +kernel

theorem witness_ClockTurnCounts :
    State.turns { at1000 with turns := [.env (.clk 50)] } = [.env (.clk 50)] := by rfl

theorem witness_UnlinkRemovesJob : 0#16 ∈ twoJobs.q ∧ 5#16 ∉ twoJobs.q := by decide +kernel

/-- InsertBeforeFirstLater holds of every list; the vector has entries on both sides. -/
theorem witness_InsertBeforeFirstLater :
    insertBefore twoJobs.dlOf 2#16 1030#32 twoJobs.q = [1#16, 2#16, 0#16]
      ∧ later (twoJobs.dlOf 1#16) 1030#32 = false ∧ later (twoJobs.dlOf 0#16) 1030#32 = true := by decide +kernel

theorem reset_stores : StoreInv State.reset := by unfold StoreInv; decide +kernel

theorem twoJobs_stores : StoreInv twoJobs := by unfold StoreInv; decide +kernel

/-- SchedCompletes: a requested IMMED with a deadline ahead, a deadline one tick ahead, and one due now. -/
theorem witness_SchedCompletes :
    twoJobs.acceptance .plain = .accepted ∧ twoJobs.quiet ∧ twoJobs.irqNest ≠ NEST_MAX ∧ twoJobs.irqSettled
      ∧ StoreInv twoJobs ∧ (0b010#3 : FlagSet).getLsbD 1 = true ∧ (0#3 : FlagSet).getLsbD 1 = false
      ∧ 0 < sdiff 1001#32 twoJobs.tick ∧ sdiff 1000#32 twoJobs.tick ≤ 0 :=
  ⟨rfl, rfl, by decide +kernel, by decide +kernel, twoJobs_stores, rfl, rfl, by decide +kernel, by decide +kernel⟩

/-- Two jobs of HOST's, the first due, and a RUNSTEP inside its sleep call. -/
def reaching : State :=
  { twoJobs with xtime := 1020#64, rlState := .sleeping, irqNest := 1#8, turns := [.sleepReturns .reached] }

theorem twoJobs_ordered : twoJobs.q.Nodup ∧ twoJobs.queueOrdered := ⟨by decide +kernel, by decide +kernel, trivial⟩

/-- The deadlines of twoJobs, the ticks 1000 and 1020 and a new deadline lie in a window from tick 1000. -/
theorem twoJobs_window (P : Tick → Prop) (hP : ∀ d, P d → d = 1000#32 ∨ d = 1020#32 ∨ d = 1030#32) :
    InWindow (fun d => (∃ e ∈ twoJobs.q, d = twoJobs.dlOf e) ∨ P d) := by
  refine ⟨1000#32, ?_⟩
  rintro d (⟨e, he, rfl⟩ | hd)
  · have : e = 1#16 ∨ e = 0#16 := by simpa [twoJobs] using he
    rcases this with rfl | rfl
    · exact ⟨20, by decide, by decide +kernel⟩
    · exact ⟨50, by decide, by decide +kernel⟩
  · rcases hP d hd with rfl | rfl | rfl
    · exact ⟨0, by decide, by decide +kernel⟩
    · exact ⟨20, by decide, by decide +kernel⟩
    · exact ⟨30, by decide, by decide +kernel⟩

/-- ScheduleKeepsOrder: SCHED on a sample, CANCEL and SCHED as operations, and the dequeue of a job of HOST's. -/
theorem witness_ScheduleKeepsOrder :
    StoreInv twoJobs ∧ twoJobs.q.Nodup ∧ twoJobs.queueOrdered
      ∧ InWindow (fun d => (∃ e ∈ twoJobs.q, d = twoJobs.dlOf e) ∨ d = (normalise 1000#32 1030#32 0#3).1)
      ∧ twoJobs.quiet ∧ twoJobs.irqSettled
      ∧ InWindow (fun d => (∃ e ∈ twoJobs.q, d = twoJobs.dlOf e) ∨ d = twoJobs.tick
          ∨ newDeadline (.cancel 0#16) twoJobs = some d)
      ∧ InWindow (fun d => (∃ e ∈ twoJobs.q, d = twoJobs.dlOf e) ∨ d = twoJobs.tick
          ∨ newDeadline (.sched 2#16 1030#32 9#32 0#3) twoJobs = some d)
      ∧ reaching.turns = [.sleepReturns .reached] ∧ reaching.quiet ∧ StoreInv reaching ∧ reaching.q.Nodup
      ∧ reaching.queueOrdered
      ∧ InWindow (fun d => (∃ e ∈ reaching.q, d = reaching.dlOf e) ∨ d = reaching.tick
          ∨ ∃ h, reaching.q.head? = some h ∧ (reaching.job h).cb = CB_XSTEP
              ∧ newDeadline (.xstep h) reaching = some d) := by
  have hx : reaching.q = 1#16 :: [0#16] := rfl
  refine ⟨twoJobs_stores, twoJobs_ordered.1, twoJobs_ordered.2, twoJobs_window _ ?_, rfl, by decide +kernel,
    twoJobs_window _ ?_, twoJobs_window _ ?_, rfl, rfl, twoJobs_stores, twoJobs_ordered.1, twoJobs_ordered.2,
    twoJobs_window _ ?_⟩
  · rintro d rfl
    exact .inr (.inr (by decide +kernel))
  · rintro d (rfl | h)
    · exact .inl (by decide +kernel)
    · exact absurd h (by simp [newDeadline])
  · rintro d (rfl | h)
    · exact .inl (by decide +kernel)
    · cases h
      exact .inr (.inr (by decide +kernel))
  · rintro d (rfl | ⟨h, hh, hc, -⟩)
    · exact .inr (.inl (by decide +kernel))
    · rw [hx] at hh
      cases hh
      exact absurd hc (by decide +kernel)

/-- ScheduleKeepsOrder, its last clause on an intermediate entry: the new deadline is at the far end of the window. -/
theorem witness_ScheduleKeepsOrder_xstep :
    (chain CB_XSTEP).turns = [.sleepReturns .reached] ∧ (chain CB_XSTEP).quiet ∧ StoreInv (chain CB_XSTEP)
      ∧ (chain CB_XSTEP).q.Nodup ∧ (chain CB_XSTEP).queueOrdered
      ∧ InWindow (fun d => (∃ e ∈ (chain CB_XSTEP).q, d = (chain CB_XSTEP).dlOf e) ∨ d = (chain CB_XSTEP).tick
          ∨ ∃ h, (chain CB_XSTEP).q.head? = some h ∧ ((chain CB_XSTEP).job h).cb = CB_XSTEP
              ∧ newDeadline (.xstep h) (chain CB_XSTEP) = some d) := by
  refine ⟨rfl, rfl, by unfold StoreInv; decide +kernel, by decide +kernel, trivial, 1050#32, ?_⟩
  rintro d (⟨e, he, rfl⟩ | rfl | ⟨h, hh, -, hd⟩)
  · have : e = 0#16 := by simpa [chain] using he
    subst this
    exact ⟨0, by decide, by decide +kernel⟩
  · exact ⟨0, by decide, by decide +kernel⟩
  · have : 0#16 = h := by simpa [chain] using hh
    subst this
    cases hd
    exact ⟨SAFE_SPAN, le_refl _, by decide +kernel⟩

theorem witness_CancelCompletes :
    twoJobs.acceptance .plain = .accepted ∧ twoJobs.quiet ∧ twoJobs.irqNest ≠ NEST_MAX ∧ twoJobs.irqSettled := by
  decide +kernel

/-- SchedxCompletes: at the deepest nesting it admits. -/
theorem witness_SchedxCompletes :
    State.acceptance .plain { twoJobs with irqNest := 252#8 } = .accepted
      ∧ State.quiet { twoJobs with irqNest := 252#8 } ∧ (252#8).toNat + 3 ≤ NEST_MAX.toNat
      ∧ State.irqSettled { twoJobs with irqNest := 252#8 } ∧ StoreInv { twoJobs with irqNest := 252#8 } :=
  ⟨rfl, rfl, by decide, by decide +kernel, twoJobs_stores⟩

/-- XstepBranches: each branch at its boundary, one tick apart. -/
theorem witness_XstepBranches :
    xdiff 0x80000000#64 0#64 > SAFE_SPAN ∧ 0 < xdiff 0x7FFFFFFF#64 0#64 ∧ xdiff 0x7FFFFFFF#64 0#64 ≤ SAFE_SPAN
      ∧ 0 < xdiff 1#64 0#64 ∧ xdiff 0#64 0#64 ≤ 0
      ∧ -2 ^ 31 ≤ xdiff 0#64 0x80000000#64 ∧ xdiff 0#64 0x80000000#64 ≤ 0 := by decide +kernel

theorem witness_XstepCompletes :
    twoJobs.seqFree ∧ twoJobs.quiet ∧ twoJobs.irqNest.toNat + 2 ≤ NEST_MAX.toNat ∧ twoJobs.irqSettled ∧ StoreInv twoJobs :=
  ⟨⟨rfl, rfl⟩, rfl, by decide +kernel, by decide +kernel, twoJobs_stores⟩

theorem witness_RunstepEntersSleep :
    twoJobs.acceptance .runner = .accepted ∧ twoJobs.quiet ∧ twoJobs.irqNest ≠ NEST_MAX
      ∧ at1000.acceptance .runner = .accepted ∧ at1000.q = [] := by decide +kernel

/-- SleepReachedDispatches: a due job of HOST's at the head, with no interrupt pending and with one that step 4 serves. -/
theorem witness_SleepReachedDispatches :
    (chain 7#32).turns = [.sleepReturns .reached] ∧ (chain 7#32).seqFree ∧ (chain 7#32).rlState = .sleeping
      ∧ (chain 7#32).quiet ∧ (chain 7#32).q = [0#16] ∧ (chain 7#32).q.Nodup
      ∧ due ((chain 7#32).job 0#16).dl (chain 7#32).tick = true ∧ (chain 7#32).irqNest ≠ 0#8
      ∧ ((chain 7#32).job 0#16).cb ≠ CB_XSTEP ∧ ((chain 7#32).job 0#16).cb ≠ CB_RPROC
      ∧ ¬Serves (chain 7#32) 0#16 ∧ Serves { chain 7#32 with irqPend := true } 0#16 ∧ 0#16 ≠ RJOB := by
  unfold Serves
  decide +kernel

/-- SleepReachedRunsXstep: a due intermediate entry at the head, with no interrupt pending and with one that is served; its
conclusion is by RL_LOOP, of which no hypothesis speaks. -/
theorem witness_SleepReachedRunsXstep :
    (chain CB_XSTEP).turns = [.sleepReturns .reached] ∧ (chain CB_XSTEP).seqFree ∧ (chain CB_XSTEP).rlState = .sleeping
      ∧ (chain CB_XSTEP).quiet ∧ (chain CB_XSTEP).q = [0#16] ∧ (chain CB_XSTEP).q.Nodup ∧ StoreInv (chain CB_XSTEP)
      ∧ due ((chain CB_XSTEP).job 0#16).dl (chain CB_XSTEP).tick = true ∧ (chain CB_XSTEP).irqNest ≠ 0#8
      ∧ (chain CB_XSTEP).irqNest ≠ NEST_MAX
      ∧ ((chain CB_XSTEP).job 0#16).cb = CB_XSTEP ∧ ((chain CB_XSTEP).job 0#16).fl = FL_APPROX
      ∧ ¬Serves (chain CB_XSTEP) 0#16 ∧ Serves { chain CB_XSTEP with irqPend := true } 0#16 ∧ 0#16 ≠ RJOB := by
  unfold StoreInv Serves
  decide +kernel

/-- SleepReachedRunsRproc: the driver's record is due at the head, with no interrupt pending and with one that is served. -/
theorem witness_SleepReachedRunsRproc :
    completion.turns = [.sleepReturns .reached] ∧ completion.seqFree ∧ completion.rlState = .sleeping
      ∧ completion.quiet ∧ completion.q = [RJOB] ∧ completion.q.Nodup ∧ StoreInv completion
      ∧ due (completion.job RJOB).dl completion.tick = true ∧ completion.irqNest ≠ 0#8
      ∧ (completion.job RJOB).cb = CB_RPROC
      ∧ ¬Serves completion RJOB ∧ Serves { completion with irqPend := true } RJOB := by
  unfold StoreInv Serves
  decide +kernel

/-- InterruptedStepLosesNothing: below a HOST that suppresses nothing, and below one that does (b is either); and under RL_LOOP
with no interrupt pending and with one that is served. -/
theorem witness_InterruptedStepLosesNothing :
    twoJobs.acceptance .runner = .accepted ∧ twoJobs.quiet ∧ twoJobs.irqNest ≠ NEST_MAX ∧ twoJobs.wdArmed = false
      ∧ exec .runstep twoJobs = .next (after (exec .runstep twoJobs)) ∧ twoJobs.irqNest = 0#8
      ∧ State.acceptance .runner { twoJobs with irqNest := 254#8 } = .accepted
      ∧ State.irqNest { twoJobs with irqNest := 254#8 } ≠ NEST_MAX
      ∧ State.irqNest { twoJobs with irqNest := 254#8 } ≠ 0#8
      ∧ (looping false).turns = [.sleepReturns .interrupted] ∧ (looping false).seqFree
      ∧ (looping false).rlState = .sleeping ∧ (looping false).rlLoop = true ∧ (looping false).quiet
      ∧ (looping false).irqNest ≠ 0#8 ∧ (looping false).wdArmed = false
      ∧ ¬((looping false).irqPend = true ∧ (looping false).irqNest = 1#8)
      ∧ (looping true).irqPend = true ∧ (looping true).irqNest = 1#8 := by
  refine ⟨rfl, rfl, by decide +kernel, rfl, rfl, rfl, ?_⟩
  decide +kernel

/-- CbretFinishes: outside and inside RUNLOOP. -/
theorem witness_CbretFinishes :
    inCallback.acceptance .callbackReturn = .accepted ∧ inCallback.quiet ∧ inCallback.rlLoop = false
      ∧ State.acceptance .callbackReturn { inCallback with rlLoop := true } = .accepted
      ∧ State.quiet { inCallback with rlLoop := true } ∧ State.rlLoop { inCallback with rlLoop := true } = true
      ∧ State.irqNest { inCallback with rlLoop := true } ≠ NEST_MAX := by decide +kernel

/-- NestingCommandsComplete: a disable at 254, an enable at 255, an enable that serves. -/
theorem witness_NestingCommandsComplete :
    State.acceptance .plain { at1000 with irqNest := 254#8 } = .accepted ∧ (254#8 : BitVec 8) ≠ NEST_MAX
      ∧ State.acceptance .plain { at1000 with irqNest := 255#8 } = .accepted ∧ (255#8 : BitVec 8) ≠ 0#8
      ∧ ¬((255#8 : BitVec 8) = 1#8 ∧ State.irqPend { at1000 with irqNest := 255#8 } = true)
      ∧ State.acceptance .plain { at1000 with irqNest := 1#8, irqPend := true } = .accepted
      ∧ State.irqPend { at1000 with irqNest := 1#8, irqPend := true } = true
      ∧ State.quiet { at1000 with irqNest := 1#8, irqPend := true } := by decide +kernel

/-- A state at this nesting. -/
def nested (n : BitVec NEST_W) : State := { at1000 with irqNest := n }

/-- NestingLimitsAssert: at the limit and one and two levels below it, at 0, and under RL_LOOP. -/
theorem witness_NestingLimitsAssert :
    (nested NEST_MAX).acceptance .plain = .accepted ∧ (nested NEST_MAX).irqNest = NEST_MAX ∧ (nested NEST_MAX).quiet
      ∧ (nested NEST_MAX).busyClears ∧ (nested NEST_MAX).acceptance .runner = .accepted ∧ (nested NEST_MAX).seqFree
      ∧ (nested 254#8).acceptance .plain = .accepted ∧ (nested 254#8).irqNest = NEST_MAX - 1 ∧ (nested 254#8).seqFree
      ∧ (nested 253#8).acceptance .plain = .accepted ∧ (nested 253#8).irqNest = NEST_MAX - 2
      ∧ (nested 0#8).acceptance .plain = .accepted ∧ (nested 0#8).irqNest = 0#8
      ∧ State.acceptance .callbackReturn { inCallback with rlLoop := true, irqNest := NEST_MAX } = .accepted
      ∧ State.quiet { inCallback with rlLoop := true, irqNest := NEST_MAX }
      ∧ State.rlLoop { inCallback with rlLoop := true, irqNest := NEST_MAX } = true := by decide +kernel

/-- WatchdogExpiry: its turn, armed and not, and a callback after which nothing is left. -/
theorem witness_WatchdogExpiry :
    State.turns { inCallback with turns := [.env .wdg] } = [.env .wdg] ∧ inCallback.wdArmed = true
      ∧ State.turns { at1000 with turns := [.env .wdg] } = [.env .wdg] ∧ at1000.wdArmed = false
      ∧ inCallback.turns = [] ∧ inCallback.host = [] ∧ inCallback.rlState = .dispatching :=
  ⟨rfl, rfl, rfl, rfl, rfl, rfl, rfl⟩

theorem witness_RirqQueuesProcessing :
    State.irqPend { twoJobs with irqPend := true } = true ∧ twoJobs.irqNest = 0#8 ∧ twoJobs.fault = false
      ∧ StoreInv { twoJobs with irqPend := true } := ⟨rfl, rfl, rfl, twoJobs_stores⟩

/-- EdgeLatchedOrServed: suppressed, after a fault, and served. -/
theorem witness_EdgeLatchedOrServed :
    State.turns { at1000 with turns := [.env .edge], irqNest := 1#8 } = [.env .edge] ∧ (1#8 : BitVec 8) ≠ 0#8
      ∧ State.turns { at1000 with turns := [.env .edge], fault := true } = [.env .edge]
      ∧ State.turns { at1000 with turns := [.env .edge] } = [.env .edge] ∧ at1000.irqNest = 0#8
      ∧ at1000.fault = false := ⟨rfl, by decide, rfl, rfl, rfl, rfl⟩

theorem witness_FrameShapes :
    (radio .idle [some 2] []).seqFree ∧ (radio .idle [some 2] []).quiet ∧ (radio .idle [some 2] []).busyNow = some 2 := by
  decide +kernel

/-- ChipCommandFrames: an unscripted busy line reads 0 after a free number of polls. -/
theorem witness_ChipCommandFrames :
    (radio .idle [] []).seqFree ∧ (radio .idle [] []).quiet
      ∧ (radio .idle [] []).busyNow = some (Config.busyPolls 0) := ⟨⟨rfl, rfl⟩, rfl, rfl⟩

/-- BusyLineHangsFrame: a line that never clears, and a state that hangs inside a callback, at the turn of each clause. -/
theorem witness_BusyLineHangsFrame :
    (radio .idle [none] []).seqFree ∧ (radio .idle [none] []).quiet ∧ (radio .idle [none] []).busyNow = none
      ∧ Instr.isCommand .ccFs = false ∧ Instr.ccFs ≠ .rirq ∧ Instr.ccFs ≠ .rproc ∧ (∀ j, Instr.ccFs ≠ .xstep j)
      ∧ (hanging []).hung = true ∧ (hanging []).fault = false ∧ Instr.isCommand .gettick = true
      ∧ step (hanging [.seq]) = .next (hanging []) ∧ (∀ x ts, (hanging [.seq]).turns ≠ .platformReset x :: ts)
      ∧ (hanging []).wdArmed = true ∧ (hanging []).turns = []
      ∧ (hanging [.env .wdg]).turns = [.env .wdg]
      ∧ (hanging [.platformReset 5#63]).turns = [.platformReset 5#63] :=
  ⟨⟨rfl, rfl⟩, rfl, rfl, rfl, by simp, by simp, by simp, rfl, rfl, rfl, rfl, by simp [hanging], rfl, rfl, rfl, rfl⟩

theorem witness_RtxArmsTransmit :
    (radio .idle [some 0] []).acceptance .plain = .accepted ∧ (radio .idle [some 0] []).quiet
      ∧ (radio .idle [some 0] []).busyClears := by decide +kernel

theorem witness_RrxArmsContinuous :
    (radio .rxs [some 3] []).acceptance .plain = .accepted ∧ (radio .rxs [some 3] []).quiet
      ∧ (radio .rxs [some 3] []).busyClears := by decide +kernel

theorem witness_RrxArmsSingle :
    (radio .idle [] []).acceptance .plain = .accepted ∧ (radio .idle [] []).quiet ∧ (radio .idle [] []).busyClears
      ∧ (radio .idle [] []).irqNest ≠ NEST_MAX ∧ (radio .idle [] []).irqSettled := by decide +kernel

/-- RsleepElidedOrSleeps: both values of the flag. -/
theorem witness_RsleepElidedOrSleeps :
    (radio .idle [some 0] []).acceptance .plain = .accepted ∧ (radio .idle [some 0] []).quiet
      ∧ (radio .idle [some 0] []).busyClears ∧ (radio .idle [some 0] []).rsleep = false
      ∧ State.acceptance .plain { State.reset with rsleep := true } = .accepted
      ∧ State.busyClears { State.reset with rsleep := true } := by decide +kernel

/-- RrandDrawsBytes, with the answers its inner clause splits. -/
theorem witness_RrandDrawsBytes :
    ∃ (s : State) (pre r post : List Byte), s.acceptance .plain = .accepted ∧ s.quiet ∧ s.busyClears
      ∧ s.chipIn = pre ++ r ++ post
      ∧ pre.length = 2 + 3 + (3 + Config.params.routeLen) + (1 + Config.params.timeoutLen) + 4
      ∧ r.length = Config.params.randN :=
  ⟨radio .idle [] (List.replicate (2 + 3 + (3 + Config.params.routeLen) + (1 + Config.params.timeoutLen) + 4) 0#8
      ++ List.replicate Config.params.randN 5#8 ++ []), _, _, [], rfl, rfl, by simp [State.busyClears, radio], rfl,
    by simp, by simp⟩

/-- RinitChecksChip: CHIP answers the expected bytes of this hardware. -/
theorem witness_RinitChecksChip :
    let s := radio .idle [some 0] (List.replicate 4 0#8 ++ Config.params.chkValue)
    s.acceptance .plain = .accepted ∧ s.quiet ∧ s.busyNow = some 0
      ∧ frameData (Config.params.opc .rreg) (addrBytes Config.params.chkAddr) true Config.params.chkLen s
          = Config.params.chkValue := by
  intro s
  refine ⟨rfl, rfl, rfl, ?_⟩
  have hl : Config.params.chkValue.length = Config.params.chkLen := by
    have := params_ok
    simp only [Params.ok, Bool.and_eq_true, beq_iff_eq] at this
    exact this.2
  have hn : (frameOut (Config.params.opc .rreg) (addrBytes Config.params.chkAddr) true Config.params.chkLen).length
      = (List.replicate 4 (0#8 : Byte) ++ Config.params.chkValue).length := by
    simp [frameOut, addrBytes_eq, hl]; omega
  unfold frameData
  rw [answers_congr _ (show s.afterBusy.chipIn = s.chipIn from rfl) (show s.afterBusy.draws = s.draws from rfl), hn,
    answers_scripted (s := s) (r := []) (l := List.replicate 4 0#8 ++ Config.params.chkValue)
      (List.append_nil _).symm, List.length_append, hl, List.length_replicate,
    Nat.add_sub_cancel]
  exact List.drop_left' (List.length_replicate ..)

/-- RinitMismatchFatal: the sample configuration, and one wrong byte. -/
theorem witness_RinitMismatchFatal :
    let s := radio .idle [some 0] [0#8, 0#8, 0#8, 0#8, 0x15#8]
    Params.sample.ok = true ∧ Params.sample.hasReset = true ∧ s.acceptance .plain = .accepted ∧ s.quiet
      ∧ s.busyNow = some 0
      ∧ frameData (Params.sample.opc .rreg) (addrBytes Params.sample.chkAddr) true Params.sample.chkLen s
          ≠ Params.sample.chkValue := by decide +kernel

/-- What the interrupt status reads as when CHIP answers m. -/
theorem statusWord_scripted (o : Rop) (busy : List (Option Nat)) (m : BitVec 16) :
    statusWord Config.params (radio o (some 0 :: busy) ([0#8, 0#8] ++ bytes16 m)) = m := by
  show word16 (m.extractLsb' 8 8) (m.extractLsb' 0 8) = m
  unfold word16
  rw [BitVec.extractLsb'_append_extractLsb'_eq_extractLsb' (by rfl)]
  exact BitVec.extractLsb'_eq_self

/-- The three masks of this hardware: non-zero and disjoint (R103). -/
theorem masks :
    Config.params.irqTxdone ≠ 0#16 ∧ Config.params.irqRxdone ≠ 0#16 ∧ Config.params.irqTimeout ≠ 0#16
      ∧ Config.params.irqTxdone &&& Config.params.irqTimeout = 0#16
      ∧ Config.params.irqRxdone &&& Config.params.irqTimeout = 0#16 := by
  have := params_ok
  simp only [Params.ok, Bool.and_eq_true, beq_iff_eq, bne_iff_ne, ne_eq] at this
  tauto

/-- RprocFatalBranches: nothing armed, continuous wave, and a status of zero under a transmit. -/
theorem witness_RprocFatalBranches :
    (radio .idle [some 0] []).seqFree ∧ (radio .idle [some 0] []).quiet ∧ (radio .idle [some 0] []).busyNow = some 0
      ∧ (radio .idle [some 0] []).rop = .idle ∧ (radio .txcw [some 0] []).rop = .txcw
      ∧ (let s := radio .tx [some 0] ([0#8, 0#8] ++ bytes16 0#16)
         s.seqFree ∧ s.quiet ∧ s.busyNow = some 0 ∧ s.rop ≠ .idle ∧ s.rop ≠ .txcw
           ∧ ((statusWord Config.params s &&& (if s.rop = .tx then Config.params.irqTxdone else Config.params.irqRxdone)
                ≠ 0#16) ↔ (statusWord Config.params s &&& Config.params.irqTimeout ≠ 0#16))) := by
  refine ⟨⟨rfl, rfl⟩, rfl, rfl, rfl, rfl, ⟨rfl, rfl⟩, rfl, rfl, by decide +kernel, by decide +kernel, ?_⟩
  rw [statusWord_scripted]
  simp

theorem witness_RprocTransmitDone :
    let s := radio .tx [some 0] ([0#8, 0#8] ++ bytes16 Config.params.irqTxdone)
    s.seqFree ∧ s.quiet ∧ s.busyNow = some 0 ∧ s.rop = .tx
      ∧ statusWord Config.params s &&& Config.params.irqTxdone ≠ 0#16
      ∧ statusWord Config.params s &&& Config.params.irqTimeout = 0#16 := by
  refine ⟨⟨rfl, rfl⟩, rfl, rfl, rfl, ?_, ?_⟩ <;> rw [statusWord_scripted]
  · rw [BitVec.and_self]; exact masks.1
  · exact masks.2.2.2.1

theorem witness_RprocReceiveDone :
    let s := radio .rxs [some 0] ([0#8, 0#8] ++ bytes16 Config.params.irqRxdone)
    s.seqFree ∧ s.quiet ∧ s.busyClears ∧ (s.rop = .rxs ∨ s.rop = .rxc) ∧ StoreInv s
      ∧ statusWord Config.params s &&& Config.params.irqRxdone ≠ 0#16
      ∧ statusWord Config.params s &&& Config.params.irqTimeout = 0#16 := by
  refine ⟨⟨rfl, rfl⟩, rfl, by simp [State.busyClears, radio], .inl rfl, reset_stores, ?_, ?_⟩ <;>
    rw [statusWord_scripted]
  · rw [BitVec.and_self]; exact masks.2.1
  · exact masks.2.2.2.2

/-- RprocTimedOut: under a transmit and under a continuous receive. -/
theorem witness_RprocTimedOut :
    (let s := radio .tx [some 0] ([0#8, 0#8] ++ bytes16 Config.params.irqTimeout)
     s.seqFree ∧ s.quiet ∧ s.busyNow = some 0 ∧ s.rop ≠ .idle ∧ s.rop ≠ .txcw
       ∧ statusWord Config.params s &&& (if s.rop = .tx then Config.params.irqTxdone else Config.params.irqRxdone) = 0#16
       ∧ statusWord Config.params s &&& Config.params.irqTimeout ≠ 0#16)
    ∧ (let s := radio .rxc [some 0] ([0#8, 0#8] ++ bytes16 Config.params.irqTimeout)
       s.seqFree ∧ s.quiet ∧ s.busyNow = some 0 ∧ s.rop ≠ .idle ∧ s.rop ≠ .txcw
         ∧ statusWord Config.params s &&& (if s.rop = .tx then Config.params.irqTxdone else Config.params.irqRxdone)
             = 0#16
         ∧ statusWord Config.params s &&& Config.params.irqTimeout ≠ 0#16) := by
  refine ⟨⟨⟨rfl, rfl⟩, rfl, rfl, by decide +kernel, by decide +kernel, ?_, ?_⟩,
    ⟨⟨rfl, rfl⟩, rfl, rfl, by decide +kernel, by decide +kernel, ?_, ?_⟩⟩ <;> rw [statusWord_scripted]
  · exact (BitVec.and_comm _ _).trans masks.2.2.2.1
  · rw [BitVec.and_self]; exact masks.2.2.1
  · exact (BitVec.and_comm _ _).trans masks.2.2.2.2
  · rw [BitVec.and_self]; exact masks.2.2.1

/-- HostWritesItsWindow: the last byte of FRAME, the first address beyond it, and an input field, at both turns of SEQ. -/
theorem witness_HostWritesItsWindow :
    (offers (.write (.frame 254 7#8)) []).turns = [] ∧ (offers (.write (.frame 254 7#8)) []).portOpen = true
      ∧ StoreInv (offers (.write (.frame 254 7#8)) []) ∧ 254 < MAX_LEN
      ∧ (offers (.write (.frame 254 7#8)) []).host = [.write (.frame 254 7#8)]
      ∧ MAX_LEN ≤ 255 ∧ (offers (.write (.frame 255 7#8)) []).host = [.write (.frame 255 7#8)]
      ∧ (∀ w, (offers (.write w) [.seq]).turns = [.seq] ∧ (offers (.write w) [.seq]).portOpen = true
          ∧ StoreInv (offers (.write w) [.seq]) ∧ (offers (.write w) [.seq]).host = [.write w]) :=
  ⟨rfl, rfl, reset_stores, by decide, rfl, by decide, rfl, fun _ => ⟨rfl, rfl, reset_stores, rfl⟩⟩

theorem witness_SharedRecordOwnership : exec .gettick at1000 = .next (after (exec .gettick at1000)) := by rfl

theorem witness_StepKeepsScheduler :
    SchedulerInv twoJobs ∧ StoreInv twoJobs ∧ step twoJobs = .next twoJobs := by
  refine ⟨?_, twoJobs_stores, rfl⟩
  unfold SchedulerInv
  decide +kernel

/-- StepKeepsStores: HOST writes a byte of FRAME. -/
theorem witness_StepKeepsStores :
    StoreInv (offers (.write (.frame 254 7#8)) [])
      ∧ step (offers (.write (.frame 254 7#8)) []) = .next (after (step (offers (.write (.frame 254 7#8)) []))) :=
  ⟨reset_stores, rfl⟩

/-- StepKeepsSleepFlag: the flag is set, and HOST issues RSLEEP again. -/
theorem witness_StepKeepsSleepFlag :
    RadioInv { offers (.cmd 0x33#128) [] with rsleep := true, chipMode := .sleep }
      ∧ step { offers (.cmd 0x33#128) [] with rsleep := true, chipMode := .sleep }
          = .next (after (step { offers (.cmd 0x33#128) [] with rsleep := true, chipMode := .sleep })) :=
  ⟨fun _ => ⟨rfl, rfl⟩, rfl⟩

/-- StepKeepsFaultCode: the unbalanced enable of P6. -/
theorem witness_StepKeepsFaultCode :
    FaultInv (offers (.cmd 0x29#128) [])
      ∧ step (offers (.cmd 0x29#128) []) = .next (after (step (offers (.cmd 0x29#128) []))) :=
  ⟨⟨fun _ => rfl, fun h => absurd h (by decide +kernel), fun h => absurd h (by decide +kernel)⟩, rfl⟩

/-- StepKeepsControl: inside a sleep call that an event ends. -/
theorem witness_StepKeepsControl :
    ControlInv { asleep 1010#64 0#3 with turns := [.sleepReturns .interrupted] }
      ∧ step { asleep 1010#64 0#3 with turns := [.sleepReturns .interrupted] }
          = .next (after (step { asleep 1010#64 0#3 with turns := [.sleepReturns .interrupted] })) := by
  refine ⟨?_, rfl⟩
  unfold ControlInv
  decide +kernel

end Sys2Proof.Machine.Tests
end

section
/-!
PROOF. Illegal command words (30_encoding.md R94): the decoder refuses exactly the words that rule lists, one format of R86
at a time, and SEQ's turn at a refused word is the fatal entry of R270 with ILLEGAL_CMD.
-/

namespace Sys2Proof.Machine

/-! ## Which operand checks fail (R91, R92) -/

theorem params_njobs_pos : 0 < Config.params.njobs := by
  have h := params_ok
  simp only [Params.ok, Bool.and_eq_true, decide_eq_true_eq] at h
  omega

/-- R91's check, job 0 included: some job always exists. -/
theorem jobLegal_iff (j : JobId) : jobLegal Config.params j = true ↔ j.toNat < Config.params.njobs := by
  unfold jobLegal
  split
  next h => simpa [h] using params_njobs_pos
  next k h => simp [h]

theorem cbLegal_iff (cb : CbId) : cbLegal cb = true ↔ cb.toNat < 0xFFFFFFF0 := by
  simp only [cbLegal, BitVec.ult, decide_eq_true_eq]
  rfl

/-! ## Refusal, one format at a time (R86) -/

/-- The decoder's answer names a failed check. -/
def Refused (r : Except DecodeError Instr) : Prop := ∃ e, r = .error e

@[simp] theorem refused_error (e : DecodeError) : Refused (.error e) := ⟨e, rfl⟩

@[simp] theorem not_refused_ok (i : Instr) : ¬Refused (.ok i) := nofun

/-- A check that stands before the rest of the decoding refuses, or the rest does. -/
theorem refused_check {c : Prop} [Decidable c] {r : Except DecodeError Instr} {e : DecodeError} :
    Refused (if c then r else .error e) ↔ ¬c ∨ Refused r := by
  by_cases h : c <;> simp [h]

theorem decodeN_refused (w : CmdWord) (i : Instr) :
    Refused (decodeN w i) ↔
      CmdWord.fl w ≠ 0#3 ∨ CmdWord.job w ≠ 0#16 ∨ CmdWord.cb w ≠ 0#32 ∨ CmdWord.dl w ≠ 0#64 := by
  simp only [decodeN, refused_check, not_refused_ok, not_and_or, or_false, ne_eq]

theorem decodeM_refused (w : CmdWord) (mk : Bool → Instr) :
    Refused (decodeM w mk) ↔
      (CmdWord.fl w).extractLsb' 1 2 ≠ 0#2 ∨ CmdWord.job w ≠ 0#16 ∨ CmdWord.cb w ≠ 0#32 ∨ CmdWord.dl w ≠ 0#64 := by
  simp only [decodeM, refused_check, not_refused_ok, not_and_or, or_false, ne_eq]

theorem decodeJ_refused (w : CmdWord) (mk : JobId → Instr) :
    Refused (decodeJ Config.params w mk) ↔
      (CmdWord.fl w ≠ 0#3 ∨ CmdWord.cb w ≠ 0#32 ∨ CmdWord.dl w ≠ 0#64)
        ∨ ¬(CmdWord.job w).toNat < Config.params.njobs := by
  simp only [decodeJ, refused_check, jobLegal_iff, not_refused_ok, not_and_or, or_false, ne_eq]

theorem decodeS_refused (w : CmdWord) (mk : JobId → Tick → CbId → FlagSet → Instr) :
    Refused (decodeS Config.params w mk) ↔
      (CmdWord.dl w).extractLsb' 32 32 ≠ 0#32 ∨ ¬(CmdWord.job w).toNat < Config.params.njobs
        ∨ ¬(CmdWord.cb w).toNat < 0xFFFFFFF0 := by
  simp only [decodeS, refused_check, jobLegal_iff, cbLegal_iff, not_refused_ok, or_false, ne_eq]

theorem decodeX_refused (w : CmdWord) (mk : JobId → XTime → CbId → Instr) :
    Refused (decodeX Config.params w mk) ↔
      CmdWord.fl w ≠ 0#3 ∨ ¬(CmdWord.job w).toNat < Config.params.njobs ∨ ¬(CmdWord.cb w).toNat < 0xFFFFFFF0 := by
  simp only [decodeX, refused_check, jobLegal_iff, cbLegal_iff, not_refused_ok, or_false, ne_eq]

/-! ## The operation map (R87): which format decodes a word -/

/-- The codes of format N. -/
def codesN : List Nat := [0x01, 0x02, 0x20, 0x21, 0x22, 0x28, 0x29, 0x30, 0x33, 0x34]

/-- The codes of format M. -/
def codesM : List Nat := [0x31, 0x32]

/-- The codes of formats S, J and X. -/
def codesSJX : List Nat := [0x10, 0x11, 0x12]

theorem decode_reserved {w : CmdWord} (hr : CmdWord.rsv w ≠ 0#5) : decode w = .error .reservedBits := by
  simp [decode, decodeWith, hr]

theorem decode_codesN {w : CmdWord} (hr : CmdWord.rsv w = 0#5) (h : (CmdWord.op w).toNat ∈ codesN) :
    ∃ i, decode w = decodeN w i := by
  simp only [codesN, List.mem_cons, List.not_mem_nil, or_false] at h
  rcases h with h | h | h | h | h | h | h | h | h | h <;> simp only [decode, decodeWith, hr, h] <;> exact ⟨_, rfl⟩

theorem decode_codesM {w : CmdWord} (hr : CmdWord.rsv w = 0#5) (h : (CmdWord.op w).toNat ∈ codesM) :
    ∃ mk, decode w = decodeM w mk := by
  simp only [codesM, List.mem_cons, List.not_mem_nil, or_false] at h
  rcases h with h | h <;> simp only [decode, decodeWith, hr, h] <;> exact ⟨_, rfl⟩

theorem decode_sched {w : CmdWord} (hr : CmdWord.rsv w = 0#5) (h : (CmdWord.op w).toNat = 0x10) :
    decode w = decodeS Config.params w .sched := by
  simp only [decode, decodeWith, hr, h]; rfl

theorem decode_cancel {w : CmdWord} (hr : CmdWord.rsv w = 0#5) (h : (CmdWord.op w).toNat = 0x11) :
    decode w = decodeJ Config.params w .cancel := by
  simp only [decode, decodeWith, hr, h]; rfl

theorem decode_schedx {w : CmdWord} (hr : CmdWord.rsv w = 0#5) (h : (CmdWord.op w).toNat = 0x12) :
    decode w = decodeX Config.params w .schedx := by
  simp only [decode, decodeWith, hr, h]; rfl

theorem decode_unknown {w : CmdWord} (hr : CmdWord.rsv w = 0#5)
    (h : ¬((CmdWord.op w).toNat ∈ codesN ∨ (CmdWord.op w).toNat ∈ codesM ∨ (CmdWord.op w).toNat ∈ codesSJX)) :
    decode w = .error .unknownOp := by
  simp only [codesN, codesM, codesSJX, List.mem_cons, List.not_mem_nil, or_false, not_or] at h
  simp only [decode, decodeWith, hr]
  simp [h]

/-! ## The conditions of R94, one format at a time -/

theorem refused_iff_codesN {w : CmdWord} (hr : CmdWord.rsv w = 0#5) (h : (CmdWord.op w).toNat ∈ codesN) :
    Refused (decode w) ↔ IllegalWord w := by
  obtain ⟨i, hi⟩ := decode_codesN hr h
  rw [hi, decodeN_refused]
  simp only [codesN, List.mem_cons, List.not_mem_nil, or_false] at h
  rcases h with h | h | h | h | h | h | h | h | h | h <;> simp [IllegalWord, hr, h]

theorem refused_iff_codesM {w : CmdWord} (hr : CmdWord.rsv w = 0#5) (h : (CmdWord.op w).toNat ∈ codesM) :
    Refused (decode w) ↔ IllegalWord w := by
  obtain ⟨mk, hmk⟩ := decode_codesM hr h
  rw [hmk, decodeM_refused]
  simp only [codesM, List.mem_cons, List.not_mem_nil, or_false] at h
  rcases h with h | h <;> simp [IllegalWord, hr, h]

theorem refused_iff_codesSJX {w : CmdWord} (hr : CmdWord.rsv w = 0#5) (h : (CmdWord.op w).toNat ∈ codesSJX) :
    Refused (decode w) ↔ IllegalWord w := by
  simp only [codesSJX, List.mem_cons, List.not_mem_nil, or_false] at h
  rcases h with hS | hJ | hX
  · rw [decode_sched hr hS, decodeS_refused]
    simp [IllegalWord, hr, hS]
  · rw [decode_cancel hr hJ, decodeJ_refused]
    simp [IllegalWord, hr, hJ]
  · rw [decode_schedx hr hX, decodeX_refused]
    simp [IllegalWord, hr, hX]

/-- The decoder refuses exactly the words of R94: the checks of R95 in order, then the format the code selects. -/
theorem decode_refused_iff (w : CmdWord) : Refused (decode w) ↔ IllegalWord w := by
  by_cases hr : CmdWord.rsv w = 0#5
  case neg =>
    have hill : IllegalWord w := .inr (.inl hr)
    simp only [decode_reserved hr, refused_error, hill]
  by_cases hop : (CmdWord.op w).toNat ∈ codesN ∨ (CmdWord.op w).toNat ∈ codesM ∨ (CmdWord.op w).toNat ∈ codesSJX
  case neg =>
    have hill : IllegalWord w := .inl hop
    simp only [decode_unknown hr hop, refused_error, hill]
  rcases hop with hN | hM | hSJX
  · exact refused_iff_codesN hr hN
  · exact refused_iff_codesM hr hM
  · exact refused_iff_codesSJX hr hSJX

/-! ## SEQ's turn at a refused word -/

theorem fault_of_portOpen {s : State} (h : s.portOpen = true) : s.fault = false := by
  simp only [State.portOpen, Bool.and_eq_true, Bool.not_eq_true'] at h
  obtain ⟨⟨hfault, -⟩, -⟩ := h
  exact hfault

/-- The fatal entry shows `Fatal`, after `Debug` or alone (R270). -/
theorem hardFault_trace {s : State} (c : FaultCode) (h : s.fault = false) :
    (s.hardFault c).trace = s.trace ++ [.fatal c.code]
      ∨ (s.hardFault c).trace = s.trace ++ [.debug c.code, .fatal c.code] := by
  rw [hardFault_eq s c h]
  cases Config.debugOutput <;> simp

theorem hardFault_faultCode {s : State} (c : FaultCode) (h : s.fault = false) :
    (s.hardFault c).faultCode = c.code := by
  rw [hardFault_eq s c h]

/-- The fatal entry writes FAULT, FAULT_CODE and the trace, and nothing else (R272). -/
theorem hardFault_frame {s : State} (c : FaultCode) (h : s.fault = false) :
    s.hardFault c = { s with fault := true, faultCode := c.code, trace := (s.hardFault c).trace } := by
  rw [hardFault_eq s c h]

/-- With HOST acting at an open port, SEQ's turn is the same scripted or not: the watchdog owes nothing. -/
theorem step_of_act {s : State} {a : HostAct} {rest : List HostAct}
    (hturn : s.turns = [] ∨ ∃ ts, s.turns = .seq :: ts) (hopen : s.portOpen = true) (hhost : s.host = a :: rest) :
    step s = seqStep { s with turns := s.turns.tail } := by
  rcases hturn with hnil | ⟨ts, hseq⟩
  · have hs : { s with turns := s.turns.tail } = s := by rw [hnil, List.tail_nil, ← hnil]
    rw [step_unscripted hnil, overdue_of_act hopen hhost, hs]
  · rw [step_seq hseq, hseq, List.tail_cons]

theorem seqStep_of_refused {s : State} {w : CmdWord} {rest : List HostAct} {e : DecodeError} (hopen : s.portOpen = true)
    (hhost : s.host = .cmd w :: rest) (he : decode w = .error e) :
    seqStep s = .next (State.hardFault .illegalCmd { s with host := rest }) := by
  simp only [seqStep, readPort_open hopen, hhost, he]
  rfl

/-- A refused word is taken from the port, the turn is used, and what follows is the fatal entry. -/
theorem step_of_refused {s : State} {w : CmdWord} {rest : List HostAct} {e : DecodeError}
    (hturn : s.turns = [] ∨ ∃ ts, s.turns = .seq :: ts) (hopen : s.portOpen = true) (hhost : s.host = .cmd w :: rest)
    (he : decode w = .error e) :
    step s = .next (State.hardFault .illegalCmd { s with host := rest, turns := s.turns.tail }) := by
  rw [step_of_act hturn hopen hhost]
  exact seqStep_of_refused hopen hhost he

/-- Settles O5: the decoder's refusals by format, then one turn of SEQ by what the fatal entry writes. -/
theorem illegalWordRefused : Obligations.IllegalWordRefused := by
  refine ⟨decode_refused_iff, fun s w rest e hturn hopen hhost he => ?_⟩
  have hf : s.fault = false := fault_of_portOpen hopen
  exact ⟨_, step_of_refused hturn hopen hhost he, State.hardFault_fault _ _, hardFault_faultCode _ hf,
    hardFault_trace _ hf, hardFault_frame _ hf⟩

end Sys2Proof.Machine
end

section
/-!
PROOF. The comparison engine (40_clock.md R118 to R128): sdiff is the one integer in the 32-bit signed range whose residue
is the wrapped difference. Its laws, the corner at half the range, translation near the present and tick extension are
read off that characterisation.
-/

namespace Sys2Proof.Machine

/-! ## sdiff, characterised (R118) -/

theorem sdiff_eq_toInt_sub (a b : Tick) : sdiff a b = (a - b).toInt := rfl

theorem ofInt_sdiff (a b : Tick) : BitVec.ofInt 32 (sdiff a b) = a - b :=
  BitVec.ofInt_toInt

theorem sdiff_ge (a b : Tick) : -2 ^ 31 ≤ sdiff a b :=
  BitVec.le_toInt (a - b)

theorem sdiff_le (a b : Tick) : sdiff a b ≤ 2 ^ 31 - 1 :=
  Int.le_sub_one_of_lt (BitVec.toInt_lt (x := a - b))

/-- The range of sdiff and the residue of the difference determine it. -/
theorem sdiff_eq_iff {a b : Tick} {k : Int} :
    sdiff a b = k ↔ -2 ^ 31 ≤ k ∧ k ≤ 2 ^ 31 - 1 ∧ a - b = BitVec.ofInt 32 k := by
  constructor
  · rintro rfl
    exact ⟨sdiff_ge a b, sdiff_le a b, (ofInt_sdiff a b).symm⟩
  · rintro ⟨hlow, hhigh, hres⟩
    rw [sdiff_eq_toInt_sub, hres]
    exact BitVec.toInt_ofInt_eq_self (by decide) hlow (Int.lt_of_le_sub_one hhigh)

theorem toNat_sub_tick (a b : Tick) : ((a - b).toNat : Int) = ((a.toNat : Int) - b.toNat) % 2 ^ 32 := by
  have ha := tick_lt a
  have hb := tick_lt b
  have hsub : (a - b).toNat = (4294967296 - b.toNat + a.toNat) % 4294967296 := BitVec.toNat_sub a b
  omega

/-- Settles O12: the wrapped difference is the word `a - b` read without its sign, and sdiff the same word read with it. -/
theorem sdiffIsSignedDifference : Obligations.SdiffIsSignedDifference := by
  intro a b D
  have hsign : sdiff a b = if 2 * (a - b).toNat < 2 ^ 32 then ((a - b).toNat : Int) else (a - b).toNat - (2 ^ 32 : Nat) :=
    BitVec.toInt_eq_toNat_cond (a - b)
  have hD : ((a - b).toNat : Int) = D := toNat_sub_tick a b
  refine ⟨fun hlt => ?_, fun hge => ?_, sdiff_ge a b, sdiff_le a b⟩
  · rw [hsign, if_pos (by omega), hD]
  · rw [hsign, if_neg (by omega), hD]
    rfl

/-! ## The six laws (R120) -/

theorem sdiff_add_left {k : Int} (a : Tick) (h0 : 0 ≤ k) (h1 : k ≤ 2 ^ 31 - 1) :
    sdiff (a + BitVec.ofInt 32 k) a = k :=
  sdiff_eq_iff.mpr ⟨by omega, h1, add_sub_cancel_left a _⟩

theorem sdiff_sub_left {k : Int} (a : Tick) (h0 : 1 ≤ k) (h1 : k ≤ 2 ^ 31) :
    sdiff (a - BitVec.ofInt 32 k) a = -k := by
  refine sdiff_eq_iff.mpr ⟨by omega, by omega, ?_⟩
  rw [BitVec.ofInt_neg]
  exact sub_sub_cancel_left a _

/-- Only the lower end of the range has no negation in it. -/
theorem sdiff_swap {a b : Tick} (h : sdiff a b ≠ -2 ^ 31) : sdiff b a = -sdiff a b := by
  have hlow := sdiff_ge a b
  have hhigh := sdiff_le a b
  refine sdiff_eq_iff.mpr ⟨by omega, by omega, ?_⟩
  rw [BitVec.ofInt_neg, ofInt_sdiff]
  exact (neg_sub a b).symm

theorem sdiff_add_right (a b c : Tick) : sdiff (a + c) (b + c) = sdiff a b := by
  rw [sdiff_eq_toInt_sub, sdiff_eq_toInt_sub]
  exact congrArg BitVec.toInt (add_sub_add_right_eq_sub a b c)

theorem sdiff_eq_zero_iff {a b : Tick} : sdiff a b = 0 ↔ a = b := by
  constructor
  · intro h
    obtain ⟨-, -, hres⟩ := sdiff_eq_iff.mp h
    exact sub_eq_zero.mp hres
  · rintro rfl
    exact sdiff_self a

/-- Settles O13: one lemma for each law of R120. -/
theorem sdiffLaws : Obligations.SdiffLaws := fun a b =>
  ⟨sdiff_self a, fun _ => sdiff_add_left a, fun _ => sdiff_sub_left a, sdiff_swap,
    fun k => sdiff_add_right a b (BitVec.ofInt 32 k), sdiff_eq_zero_iff⟩

/-! ## Half the range (R121) -/

/-- 2^31 is its own negation modulo 2^32. -/
theorem sub_swap_of_half {a b : Tick} (h : a - b = 0x80000000#32) : b - a = 0x80000000#32 := by
  calc b - a = -(a - b) := (neg_sub a b).symm
    _ = 0x80000000#32 := by rw [h]; rfl

theorem sdiff_of_half {a b : Tick} (h : a - b = 0x80000000#32) : sdiff a b = -2 ^ 31 :=
  sdiff_eq_iff.mpr ⟨by omega, by omega, h⟩

theorem later_of_half {a b : Tick} (h : a - b = 0x80000000#32) : later a b = false := by
  simp [later, sdiff_of_half h]

theorem due_of_half {a b : Tick} (h : a - b = 0x80000000#32) : due a b = true := by
  simp [due, sdiff_of_half h]

/-- Settles O14: the distance is 2^31 read from either side, and from the deadline 2^31 ahead. -/
theorem halfRangeComparesAsPast : Obligations.HalfRangeComparesAsPast := by
  intro a b h
  have hswap : b - a = 0x80000000#32 := sub_swap_of_half h
  have hahead : tickAdd b (2 ^ 31) - b = 0x80000000#32 := add_sub_cancel_left b _
  exact ⟨hswap, sdiff_of_half h, sdiff_of_half hswap, later_of_half h, later_of_half hswap, due_of_half h,
    due_of_half hswap, due_of_half hahead⟩

/-! ## Translation from extended time (R127) -/

theorem xt2tick_eq_ofInt (x : XTime) : xt2tick x = BitVec.ofInt 32 x.toNat :=
  ((BitVec.ofInt_natCast 32 x.toNat).trans (BitVec.ofNat_toNat 32 x)).symm

/-- The word below any difference of extended times, even one outside 64 bits. -/
theorem ofInt_sub_xtime (y : Int) (x : XTime) : BitVec.ofInt 32 (y - x.toNat) = BitVec.ofInt 32 y - xt2tick x := by
  rw [xt2tick_eq_ofInt, Int.sub_eq_add_neg, BitVec.ofInt_add, BitVec.ofInt_neg]
  exact (sub_eq_add_neg _ _).symm

theorem xt2tick_sub (x y : XTime) : xt2tick x - xt2tick y = BitVec.ofInt 32 (xdiff x y) := by
  rw [xdiff, ofInt_sub_xtime, ← xt2tick_eq_ofInt]

/-- Translation keeps the wide difference modulo 2^32. -/
theorem sdiff_xt2tick (x y : XTime) : sdiff (xt2tick x) (xt2tick y) = (xdiff x y).bmod (2 ^ 32) := by
  rw [sdiff_eq_toInt_sub, xt2tick_sub, BitVec.toInt_ofInt]

/-- Near the present the tick difference is the wide difference. -/
theorem sdiff_xt2tick_near {x y : XTime} (hlow : -2 ^ 31 ≤ xdiff x y) (hhigh : xdiff x y ≤ 2 ^ 31 - 1) :
    sdiff (xt2tick x) (xt2tick y) = xdiff x y :=
  sdiff_eq_iff.mpr ⟨hlow, hhigh, xt2tick_sub x y⟩

theorem sdiff_xt2tick_far {x y : XTime} (h : ¬(-2 ^ 31 ≤ xdiff x y ∧ xdiff x y ≤ 2 ^ 31 - 1)) :
    sdiff (xt2tick x) (xt2tick y) ≠ xdiff x y := by
  intro heq
  exact h (heq ▸ ⟨sdiff_ge _ _, sdiff_le _ _⟩)

theorem dvd_xdiff_sub_sdiff (x y : XTime) : (2 ^ 32 : Int) ∣ xdiff x y - sdiff (xt2tick x) (xt2tick y) := by
  rw [sdiff_xt2tick]
  exact Int.dvd_self_sub_bmod

/-- A wide deadline that is not ahead within the safe span leaves no trace of itself in XSTEP's deadline (R153). -/
theorem xstepChoice_deadline_far {xnow xdl : XTime} (cb : CbId)
    (h : ¬(0 < xdiff xdl xnow ∧ xdiff xdl xnow ≤ (SAFE_SPAN : Int))) :
    (xstepChoice xnow xdl cb).1 = xt2tick xnow ∨ (xstepChoice xnow xdl cb).1 = tickAdd (xt2tick xnow) SAFE_SPAN := by
  unfold xstepChoice
  by_cases hfar : xdiff xdl xnow > SAFE_SPAN
  · exact .inr (by rw [if_pos hfar])
  · have hpast : ¬xdiff xdl xnow > 0 := fun hpos => h ⟨hpos, Int.not_lt.mp hfar⟩
    exact .inl (by rw [if_neg hfar, if_neg hpast])

theorem notlater_xt2tick_iff {x y : XTime} (hlow : -2 ^ 31 ≤ xdiff x y) (hhigh : xdiff x y ≤ 2 ^ 31 - 1) :
    notlater (xt2tick x) (xt2tick y) = true ↔ xdiff x y ≤ 0 := by
  rw [notlater, decide_eq_true_eq, sdiff_xt2tick_near hlow hhigh]

theorem xdiff_sub_xdiff (x y z : XTime) : xdiff x z - xdiff y z = xdiff x y := by
  unfold xdiff
  omega

/-- Settles O16: translation keeps the wide difference modulo 2^32, so exactly the differences in the range of sdiff are
kept as they are; two deadlines within the safe span of the present are such a difference apart. -/
theorem translationNearPresent : Obligations.TranslationNearPresent := by
  refine ⟨fun x => BitVec.setWidth_eq_extractLsb' (by decide), fun x xnow => sdiff_xt2tick_near,
    fun x xnow h => ⟨sdiff_xt2tick_far h, dvd_xdiff_sub_sdiff x xnow⟩, fun x xnow cb => xstepChoice_deadline_far cb, ?_⟩
  intro x y xnow hx0 hx1 hy0 hy1
  have hspan : (SAFE_SPAN : Int) = 2 ^ 31 - 1 := rfl
  have hxy := xdiff_sub_xdiff x y xnow
  exact notlater_xt2tick_iff (by omega) (by omega)

/-! ## Extension of a tick value (R128) -/

/-- Settles O17: `y` extends `t` near `xref` when its distance from `xref` is the one sdiff is characterised by. -/
theorem tickExtensionUnique : Obligations.TickExtensionUnique := by
  intro t xref y
  have hword : BitVec.ofInt 32 y = t ↔ t - xt2tick xref = BitVec.ofInt 32 (y - xref.toNat) := by
    rw [ofInt_sub_xtime, eq_comm]
    exact sub_left_inj.symm
  refine ⟨rfl, ?_⟩
  calc (-2 ^ 31 ≤ y - xref.toNat ∧ y - xref.toNat ≤ 2 ^ 31 - 1 ∧ BitVec.ofInt 32 y = t)
      ↔ sdiff t (xt2tick xref) = y - xref.toNat := by rw [hword, sdiff_eq_iff]
    _ ↔ y = tick2xt t xref := by unfold tick2xt; omega

end Sys2Proof.Machine
end

section
/-!
PROOF. The scheduler's primitives (41_scheduler.md): what unlink removes and counts (R137), and what XSTEP schedules by the
remaining distance, branch by branch, with where normalisation (R138) fires in it (R152, R153).
-/

namespace Sys2Proof.Machine

/-! ## unlink (R137) -/

theorem unlink_of_mem {s : State} {j : JobId} (h : j ∈ s.q) :
    s.unlink j = { s with
      q := s.q.filter (· != j)
      exactCnt := if flApprox (s.job j).fl then s.exactCnt else s.exactCnt - 1 } :=
  if_pos ((queued_iff s j).mpr h)

theorem queued_of_not_mem {s : State} {j : JobId} (h : j ∉ s.q) : s.queued j = false :=
  Bool.eq_false_iff.mpr (mt (queued_iff s j).mp h)

/-- Settles O20: a queued job takes the branch of unlink that filters it out, any other the branch that does nothing. -/
theorem unlinkRemovesJob : Obligations.UnlinkRemovesJob := by
  intro s j
  constructor
  · intro h
    refine ⟨(queued_iff s j).mpr h, unlink_not_mem s j, unlink_q s j, ?_⟩
    rw [unlink_q]
    exact unlink_of_mem h
  · exact fun h => ⟨queued_of_not_mem h, unlink_of_not_mem h⟩

/-! ## Where normalisation fires (R138) -/

theorem normalise_of_due {now dl : Tick} (fl : FlagSet) (h : due dl now = true) :
    normalise now dl fl = (now, flSetImmed fl) := by
  simp [normalise, h]

theorem normalise_of_ahead {now dl : Tick} {fl : FlagSet} (hfl : flImmed fl = false) (h : 0 < sdiff dl now) :
    normalise now dl fl = (dl, fl) := by
  simp [normalise, due, hfl, h]

/-! ## The far end of the safe span (R129) -/

theorem sdiff_tickAdd_self (a : Tick) {k : Nat} (h : k ≤ SAFE_SPAN) : sdiff (tickAdd a k) a = k := by
  have hk : k ≤ 2 ^ 31 - 1 := h
  rw [tickAdd, ← BitVec.ofInt_natCast]
  exact sdiff_add_left a (by omega) (by omega)

/-- One tick past the safe span is half the range, which compares as past (R121). -/
theorem due_past_safeSpan (a : Tick) : due (tickAdd (tickAdd a SAFE_SPAN) 1) a = true := by
  have hhalf : tickAdd (tickAdd a SAFE_SPAN) 1 = a + 0x80000000#32 := add_assoc a _ _
  exact due_of_half (by rw [hhalf]; exact add_sub_cancel_left a _)

/-! ## The three branches of XSTEP (R152, R153) -/

section
variable {xnow xdl : XTime} (xcb : CbId)

theorem xstepChoice_beyond (h : xdiff xdl xnow > SAFE_SPAN) :
    xstepChoice xnow xdl xcb = (tickAdd (xt2tick xnow) SAFE_SPAN, CB_XSTEP, FL_APPROX) :=
  if_pos h

theorem xstepChoice_within (h0 : 0 < xdiff xdl xnow) (h1 : xdiff xdl xnow ≤ SAFE_SPAN) :
    xstepChoice xnow xdl xcb = (xt2tick xdl, xcb, FL_APPROX) := by
  rw [xstepChoice, if_neg (Int.not_lt.mpr h1), if_pos h0]

theorem xstepChoice_past (h : xdiff xdl xnow ≤ 0) :
    xstepChoice xnow xdl xcb = (xt2tick xnow, xcb, FL_APPROX ||| FL_IMMED) := by
  have hspan : (SAFE_SPAN : Int) = 2 ^ 31 - 1 := rfl
  rw [xstepChoice, if_neg (by omega), if_neg (Int.not_lt.mpr h)]

/-- The immediate branch normalises to the present with both flags. -/
theorem normalise_xstepChoice_past (h : xdiff xdl xnow ≤ 0) :
    normalise (xt2tick xnow) (xstepChoice xnow xdl xcb).1 (xstepChoice xnow xdl xcb).2.2 = (xt2tick xnow, 0b011#3) := by
  rw [xstepChoice_past xcb h]
  exact normalise_of_due (FL_APPROX ||| FL_IMMED) (due_self (xt2tick xnow))

end

theorem flags_approx : flApprox FL_APPROX = true ∧ flIrqOff FL_APPROX = false := by decide

theorem flags_approx_immed : flApprox (FL_APPROX ||| FL_IMMED) = true ∧ flIrqOff (FL_APPROX ||| FL_IMMED) = false := by
  decide

/-- Every entry XSTEP makes is APPROX and none IRQOFF (R150, R155 e). -/
theorem xstepChoice_flags (xnow xdl : XTime) (xcb : CbId) :
    flApprox (xstepChoice xnow xdl xcb).2.2 = true ∧ flIrqOff (xstepChoice xnow xdl xcb).2.2 = false := by
  rcases lt_or_ge 0 (xdiff xdl xnow) with hpos | hpast
  · rcases lt_or_ge (SAFE_SPAN : Int) (xdiff xdl xnow) with hfar | hnear
    · rw [xstepChoice_beyond xcb hfar]
      exact flags_approx
    · rw [xstepChoice_within xcb hpos hnear]
      exact flags_approx
  · rw [xstepChoice_past xcb hpast]
    exact flags_approx_immed

theorem due_xt2tick_of_past {x xnow : XTime} (hlow : -2 ^ 31 ≤ xdiff x xnow) (hpast : xdiff x xnow ≤ 0) :
    due (xt2tick x) (xt2tick xnow) = true :=
  (notlater_xt2tick_iff hlow (by omega)).mpr hpast

/-- Settles O26: the tick difference is the safe span in the first branch and the wide difference in the second, both ahead
of the present; in the third the deadline is the present. The wide deadline 2^32 - 1 ticks ago translates to the future. -/
theorem xstepBranches : Obligations.XstepBranches := by
  intro xnow xdl xcb
  have hspan : (SAFE_SPAN : Int) = 2 ^ 31 - 1 := rfl
  refine ⟨(xstepChoice_flags xnow xdl xcb).1, (xstepChoice_flags xnow xdl xcb).2, fun hfar => ?_, fun hpos hnear => ?_,
    fun hpast => ?_, fun hlow hpast => ?_, ⟨0x100000000#64, 1#64, by decide, by decide⟩⟩
  · have hahead : sdiff (tickAdd (xt2tick xnow) SAFE_SPAN) (xt2tick xnow) = SAFE_SPAN := sdiff_tickAdd_self _ le_rfl
    have hkept := normalise_of_ahead (fl := FL_APPROX) rfl (hahead ▸ (by decide : (0 : Int) < SAFE_SPAN))
    rw [xstepChoice_beyond xcb hfar]
    exact ⟨rfl, hahead, due_past_safeSpan _, hkept⟩
  · have hahead : sdiff (xt2tick xdl) (xt2tick xnow) = xdiff xdl xnow := sdiff_xt2tick_near (by omega) (by omega)
    have hkept := normalise_of_ahead (fl := FL_APPROX) rfl (hahead.symm ▸ hpos)
    rw [xstepChoice_within xcb hpos hnear]
    exact ⟨rfl, rfl, hahead, hkept⟩
  · exact ⟨by rw [xstepChoice_past xcb hpast], normalise_xstepChoice_past xcb hpast⟩
  · rw [normalise_xstepChoice_past xcb hpast, normalise_of_due _ (due_xt2tick_of_past hlow hpast)]
    rfl

end Sys2Proof.Machine
end

section
/-!
PROOF. The six frame shapes (43_bus.md R195 to R200). Each is one Frame of R190, the register and buffer writes a bare
command whose payload starts with the address or the offset; what each shows and leaves is that frame's.
-/

namespace Sys2Proof.Machine

/-! ## Each shape as one frame -/

theorem bwregOp_eq (p : Params) (a : ChipAddr) (v : List Byte) :
    bwregOp p a v = bcmdOp (p.opc .wreg) (addrBytes a ++ v) := rfl

theorem bwbufOp_eq (p : Params) (o : Byte) (v : List Byte) : bwbufOp p o v = bcmdOp (p.opc .wbuf) (o :: v) := rfl

/-- A bare command in a quiet state whose busy line reads 0 after n polls (R195). -/
theorem bcmdOp_quiet {s : State} {n : Nat} (hq : s.quiet) (hb : s.busyNow = some n) (op : Byte) (out : List Byte) :
    bcmdOp op out s = .ok () (frameDone op out false 0 n s) :=
  bind_ok (busFrame_quiet hq hb op out false 0)

/-! ## A frame run by SEQ -/

section
variable {s : State} {n : Nat} (hfree : s.seqFree) (hq : s.quiet) (hb : s.busyNow = some n)
include hfree hq hb

theorem internalOp_bcmdOp (op : Byte) (out : List Byte) :
    internalOp (bcmdOp op out) s = .next (frameDone op out false 0 n s) :=
  internalOp_ok hfree (bcmdOp_quiet hq hb op out)

theorem internalOp_busFrame (op : Byte) (out : List Byte) (nin : Nat) :
    internalOp (busFrame op out true nin) s = .next (frameDone op out true nin n s) :=
  internalOp_ok hfree (busFrame_quiet hq hb op out true nin)

/-! ## The six shapes -/

theorem exec_bcmd (op : Byte) (v : List Byte) : exec (.bcmd op v) s = .next (frameDone op v false 0 n s) := by
  show internalOp (bcmdOp op v) s = _
  exact internalOp_bcmdOp hfree hq hb op v

theorem exec_bread (op : Byte) (k : Nat) : exec (.bread op k) s = .next (frameDone op [] true k n s) := by
  show internalOp (breadOp op k) s = _
  exact internalOp_busFrame hfree hq hb op [] k

theorem exec_bwreg (a : ChipAddr) (v : List Byte) :
    exec (.bwreg a v) s = .next (frameDone (Config.params.opc .wreg) (addrBytes a ++ v) false 0 n s) := by
  show internalOp (bwregOp Config.params a v) s = _
  rw [bwregOp_eq]
  exact internalOp_bcmdOp hfree hq hb _ _

theorem exec_brreg (a : ChipAddr) (k : Nat) :
    exec (.brreg a k) s = .next (frameDone (Config.params.opc .rreg) (addrBytes a) true k n s) := by
  show internalOp (brregOp Config.params a k) s = _
  exact internalOp_busFrame hfree hq hb _ (addrBytes a) k

theorem exec_bwbuf (o : Byte) (v : List Byte) :
    exec (.bwbuf o v) s = .next (frameDone (Config.params.opc .wbuf) (o :: v) false 0 n s) := by
  show internalOp (bwbufOp Config.params o v) s = _
  rw [bwbufOp_eq]
  exact internalOp_bcmdOp hfree hq hb _ _

theorem exec_brbuf (o : Byte) (k : Nat) :
    exec (.brbuf o k) s = .next (frameDone (Config.params.opc .rbuf) [o] true k n s) := by
  show internalOp (brbufOp Config.params o k) s = _
  exact internalOp_busFrame hfree hq hb _ [o] k

end

/-! ## What a frame leaves -/

/-- The busy answer it consumes is scripted or a free draw; either way only `busyIn` or `draws` moves (R192). -/
theorem frameDone_framesOnly (op : Byte) (out : List Byte) (st : Bool) (nin n : Nat) (s : State) :
    FramesOnly s (frameDone op out st nin n s) := by
  rw [frameDone_eq]
  unfold FramesOnly State.afterBusy
  cases s.busyIn with
  | nil => rfl
  | cons b rest => rfl

/-- Settles O39: every shape is its one frame, the addresses sent high byte first (R102); a frame leaves alone what the
lines of R190 do not write, and keeps as many data bytes as it asks for. -/
theorem frameShapes : Obligations.FrameShapes := by
  intro s n hfree hq hb
  refine ⟨exec_bcmd hfree hq hb, exec_bread hfree hq hb, fun a v => ?_, fun a k => ?_, exec_bwbuf hfree hq hb,
    exec_brbuf hfree hq hb, fun op v st k => ⟨frameDone_framesOnly op v st k n s, frameData_length op v st k s⟩⟩
  · rw [exec_bwreg hfree hq hb, addrBytes_eq, List.cons_append, List.cons_append, List.nil_append]
  · rw [exec_brreg hfree hq hb, addrBytes_eq]

end Sys2Proof.Machine
end

section
/-!
PROOF. The processing callback RPROC (44_radio.md R247 to R252) without other agents: what ends it before its frame, the one
status frame with the branch that the two status bits select, and the completion. What is fatal, the end of a transmit and
the timeout are read off these.
-/

namespace Sys2Proof.Machine

/-! ## What a frame leaves alone of the driver's registers -/

@[simp] theorem frameDone_rcfg (op : Byte) (out : List Byte) (st : Bool) (nin n : Nat) (s : State) :
    (frameDone op out st nin n s).rcfg = s.rcfg :=
  core_rcfg (frameDone_core op out st nin n s)

@[simp] theorem frameDone_rop (op : Byte) (out : List Byte) (st : Bool) (nin n : Nat) (s : State) :
    (frameDone op out st nin n s).rop = s.rop :=
  show (frameDone op out st nin n s).core.rop = s.core.rop by rw [frameDone_core]

@[simp] theorem frameDone_irqTs (op : Byte) (out : List Byte) (st : Bool) (nin n : Nat) (s : State) :
    (frameDone op out st nin n s).irqTs = s.irqTs :=
  show (frameDone op out st nin n s).core.irqTs = s.core.irqTs by rw [frameDone_core]

/-! ## The completion (R250) -/

theorem complete_quiet {s : State} (hq : s.quiet) :
    complete s = .ok () { s with
      chipMode := .standby
      ant := .off
      rop := .idle
      rlState := .dispatching
      trace := s.trace ++ [.pinAnt .off, .complete (completionKind s.rop)] } := by
  unfold complete setChipMode setAnt
  rw [rd_bind, tau_bind_quiet hq, upd_bind, tau_bind_quiet (by exact hq), upd_bind, tau_bind_quiet (by exact hq), upd_bind,
    tau_bind_quiet (by exact hq), upd_run]
  simp [State.emit]

/-- A branch of RPROC that is one line, whatever it writes, then completes. -/
theorem upd_complete_quiet {s : State} {f : State → State} (hq : (f s).quiet) :
    (upd f >>= fun _ => tau >>= fun _ => complete) s = .ok () { f s with
      chipMode := .standby
      ant := .off
      rop := .idle
      rlState := .dispatching
      trace := (f s).trace ++ [.pinAnt .off, .complete (completionKind (f s).rop)] } := by
  rw [upd_bind, tau_bind_quiet hq, complete_quiet hq]

/-! ## The branch the status selects (R247 lines 3 to 8) -/

section
variable {p : Params} {o : Rop} {st : BitVec 16}

theorem processStatus_inconsistent (h : st &&& doneMask p o ≠ 0#16 ↔ st &&& p.irqTimeout ≠ 0#16) (s : State) :
    processStatus p o st s = .error .fatal (s.hardFault .irqInconsistent) := by
  have hsame : (st &&& doneMask p o != 0#16) = (st &&& p.irqTimeout != 0#16) := by
    rw [Bool.eq_iff_iff, bne_iff_ne, bne_iff_ne]
    exact h
  simp only [processStatus, hsame, if_true, raise_run]

theorem processStatus_done (hdone : st &&& doneMask p o ≠ 0#16) (htmo : st &&& p.irqTimeout = 0#16) :
    processStatus p o st = (if o = .tx then txDone p else rxDone p) >>= fun _ => tau >>= fun _ => complete := by
  simp [processStatus, hdone, htmo]

theorem processStatus_timedOut (hdone : st &&& doneMask p o = 0#16) (htmo : st &&& p.irqTimeout ≠ 0#16) :
    processStatus p o st = timedOut >>= fun _ => tau >>= fun _ => complete := by
  simp [processStatus, hdone, htmo]

end

/-! ## RPROC up to its status frame (R247 lines 1 and 2) -/

theorem exec_rproc (s : State) : exec .rproc s = internalOp (rprocOp Config.params) s := rfl

theorem rprocOp_unarmed {s : State} (p : Params) (h : s.rop = .idle ∨ s.rop = .txcw) :
    rprocOp p s = .error .fatal (s.hardFault .unreachable) := by
  rw [rprocOp, rd_bind, if_pos h, raise_run]

/-- Under an operation RPROC goes on with the status that its first frame answered. -/
theorem rprocOp_armed {s : State} {n : Nat} (p : Params) (hq : s.quiet) (hb : s.busyNow = some n) (hidle : s.rop ≠ .idle)
    (hcw : s.rop ≠ .txcw) :
    rprocOp p s = processStatus p s.rop (statusWord p s) (frameDone (p.opc .getirq) [] true 2 n s) := by
  have hframe : ccGetirq p s = .ok _ _ := busFrame_quiet hq hb (p.opc .getirq) [] true 2
  rw [rprocOp, rd_bind, if_neg (not_or.mpr ⟨hidle, hcw⟩), tau_bind_quiet hq, bind_ok hframe,
    tau_bind_quiet (frameDone_quiet hq ..)]
  rfl

/-- RPROC under an operation is one status frame and the branch that its answer selects. -/
theorem exec_rproc_armed {s : State} {n : Nat} (hfree : s.seqFree) (hq : s.quiet) (hb : s.busyNow = some n)
    (hidle : s.rop ≠ .idle) (hcw : s.rop ≠ .txcw) :
    exec .rproc s = .next (runOp (processStatus Config.params s.rop (statusWord Config.params s))
      (frameDone (Config.params.opc .getirq) [] true 2 n s)) := by
  have hrun : runOp (rprocOp Config.params) s = runOp (processStatus Config.params s.rop (statusWord Config.params s))
      (frameDone (Config.params.opc .getirq) [] true 2 n s) := by
    simp only [runOp, rprocOp_armed Config.params hq hb hidle hcw]
  obtain ⟨hfault, hhung⟩ := hfree
  rw [exec_rproc, internalOp, hrun]
  simp [hfault, hhung]

/-! ## The branches that need no further frame -/

/-- Settles O49: line 1 ends RPROC before its frame, line 5 right after it. -/
theorem rprocFatalBranches : Obligations.RprocFatalBranches := by
  intro s n hfree hq hb p
  refine ⟨fun hunarmed => ?_, fun hidle hcw hsame => ?_⟩
  · exact internalOp_error hfree (rprocOp_unarmed p hunarmed)
  · rw [exec_rproc_armed hfree hq hb hidle hcw, runOp_error (processStatus_inconsistent hsame _)]

/-- Settles O50: tx_done() is one line that writes RCFG, from the timestamp and kind that the status frame left alone. -/
theorem rprocTransmitDone : Obligations.RprocTransmitDone := by
  intro s n hfree hq hb htx p hdone htmo u
  have hu : u.quiet := frameDone_quiet hq ..
  have hmask : doneMask p s.rop = p.irqTxdone := if_pos htx
  rw [exec_rproc_armed hfree hq hb (by simp [htx]) (by simp [htx]), processStatus_done (by rwa [hmask]) htmo, if_pos htx,
    txDone, runOp_ok (upd_complete_quiet ?quiet)]
  case quiet => exact hu
  simp only [u, p, frameDone_rcfg, frameDone_irqTs, frameDone_rop, htx, completionKind, if_true]

/-- Settles O52: timed_out() is one line that writes DATALEN and TIMEDOUT, and the kind is that of the operation the status
frame left armed. -/
theorem rprocTimedOut : Obligations.RprocTimedOut := by
  intro s n hfree hq hb hidle hcw p hdone htmo u
  have hu : u.quiet := frameDone_quiet hq ..
  rw [exec_rproc_armed hfree hq hb hidle hcw, processStatus_timedOut hdone htmo, timedOut,
    runOp_ok (upd_complete_quiet ?quiet)]
  case quiet => exact hu
  simp only [u, p, frameDone_rcfg, frameDone_rop, completionKind]

end Sys2Proof.Machine
end

section
/-!
PROOF. Decode and encode agree (30_encoding.md R85 to R95): the six fields of a word and the word packed from them, one
round trip a format in each direction, and the opcode byte that identifies a chip command (R100, R203).
-/

namespace Sys2Proof.Machine

/-! ## The fields of a packed word (R85) -/

section
variable (dl : XTime) (cb : CbId) (job : JobId) (rsv : BitVec 5) (fl : FlagSet) (op : BitVec 8)

@[simp] theorem op_packWord : CmdWord.op (packWord dl cb job rsv fl op) = op := by
  simp only [CmdWord.op, packWord, BitVec.extractLsb'_append_eq_right]

@[simp] theorem fl_packWord : CmdWord.fl (packWord dl cb job rsv fl op) = fl := by
  simp [CmdWord.fl, packWord, BitVec.extractLsb'_append_eq_of_le, BitVec.extractLsb'_append_eq_right]

@[simp] theorem rsv_packWord : CmdWord.rsv (packWord dl cb job rsv fl op) = rsv := by
  simp [CmdWord.rsv, packWord, BitVec.extractLsb'_append_eq_of_le, BitVec.extractLsb'_append_eq_right]

@[simp] theorem job_packWord : CmdWord.job (packWord dl cb job rsv fl op) = job := by
  simp [CmdWord.job, packWord, BitVec.extractLsb'_append_eq_of_le, BitVec.extractLsb'_append_eq_right]

@[simp] theorem cb_packWord : CmdWord.cb (packWord dl cb job rsv fl op) = cb := by
  simp [CmdWord.cb, packWord, BitVec.extractLsb'_append_eq_of_le, BitVec.extractLsb'_append_eq_right]

@[simp] theorem dl_packWord : CmdWord.dl (packWord dl cb job rsv fl op) = dl := by
  simp [CmdWord.dl, packWord, BitVec.extractLsb'_append_eq_of_le]

end

/-- A word is packed from its own fields. -/
theorem packWord_fields (w : CmdWord) :
    packWord (CmdWord.dl w) (CmdWord.cb w) (CmdWord.job w) (CmdWord.rsv w) (CmdWord.fl w) (CmdWord.op w) = w := by
  simp [CmdWord.op, CmdWord.fl, CmdWord.rsv, CmdWord.job, CmdWord.cb, CmdWord.dl, packWord,
    BitVec.extractLsb'_append_extractLsb'_eq_extractLsb']

@[simp] theorem op_encodeN (op : BitVec 8) : CmdWord.op (encodeN op) = op := op_packWord ..
@[simp] theorem rsv_encodeN (op : BitVec 8) : CmdWord.rsv (encodeN op) = 0#5 := rsv_packWord ..
@[simp] theorem op_encodeM (op : BitVec 8) (mode : Bool) : CmdWord.op (encodeM op mode) = op := op_packWord ..
@[simp] theorem rsv_encodeM (op : BitVec 8) (mode : Bool) : CmdWord.rsv (encodeM op mode) = 0#5 := rsv_packWord ..

/-! ## From an operation to its word and back, one format at a time (R86) -/

theorem decodeN_encodeN (op : BitVec 8) (i : Instr) : decodeN (encodeN op) i = .ok i := by
  simp [decodeN, encodeN]

theorem decodeM_encodeM (op : BitVec 8) (mode : Bool) (mk : Bool → Instr) :
    decodeM (encodeM op mode) mk = .ok (mk mode) := by
  cases mode <;> simp [decodeM, encodeM]

theorem decodeJ_packWord {p : Params} {j : JobId} (hj : jobLegal p j = true) (op : BitVec 8) (mk : JobId → Instr) :
    decodeJ p (packWord 0#64 0#32 j 0#5 0#3 op) mk = .ok (mk j) := by
  simp [decodeJ, hj]

theorem decodeS_packWord {p : Params} {j : JobId} {cb : CbId} (hj : jobLegal p j = true) (hcb : cbLegal cb = true)
    (dl : Tick) (fl : FlagSet) (op : BitVec 8) (mk : JobId → Tick → CbId → FlagSet → Instr) :
    decodeS p (packWord (0#32 ++ dl) cb j 0#5 fl op) mk = .ok (mk j dl cb fl) := by
  simp only [decodeS, dl_packWord, job_packWord, cb_packWord, fl_packWord, BitVec.extractLsb'_append_eq_left,
    BitVec.extractLsb'_append_eq_right, hj, hcb, if_true]

theorem decodeX_packWord {p : Params} {j : JobId} {cb : CbId} (hj : jobLegal p j = true) (hcb : cbLegal cb = true)
    (xdl : XTime) (op : BitVec 8) (mk : JobId → XTime → CbId → Instr) :
    decodeX p (packWord xdl cb j 0#5 0#3 op) mk = .ok (mk j xdl cb) := by
  simp [decodeX, hj, hcb]

/-- Settles O1: the operation code of each command's word selects the command's own format (R87), whose fields are the
operands that were packed. -/
theorem decodeOfEncode : Obligations.DecodeOfEncode := by
  intro i w hwf henc
  cases i
  case gettick | getxtime | runstep | runloop | cbret | irqdis | irqen | rinit | rsleep | rrand =>
    obtain rfl := Option.some.inj henc
    simp [decode, decodeWith, decodeN_encodeN]
  case rtx mode | rrx mode =>
    obtain rfl := Option.some.inj henc
    simp [decode, decodeWith, decodeM_encodeM]
  case cancel j =>
    obtain rfl := Option.some.inj henc
    rw [decode_cancel (rsv_packWord ..) (by rw [op_packWord]; rfl)]
    exact decodeJ_packWord hwf _ _
  case sched j dl cb fl =>
    obtain rfl := Option.some.inj henc
    obtain ⟨hj, hcb⟩ := Bool.and_eq_true_iff.mp hwf
    rw [decode_sched (rsv_packWord ..) (by rw [op_packWord]; rfl)]
    exact decodeS_packWord hj hcb dl fl _ _
  case schedx j xdl cb =>
    obtain rfl := Option.some.inj henc
    obtain ⟨hj, hcb⟩ := Bool.and_eq_true_iff.mp hwf
    rw [decode_schedx (rsv_packWord ..) (by rw [op_packWord]; rfl)]
    exact decodeX_packWord hj hcb xdl _ _
  all_goals exact nomatch henc

/-! ## From a word to its operation and back, one format at a time -/

section
variable {w : CmdWord} {i : Instr}

theorem decodeN_ok {j : Instr} (h : decodeN w j = .ok i) (hr : CmdWord.rsv w = 0#5) :
    i = j ∧ encodeN (CmdWord.op w) = w := by
  unfold decodeN at h
  split at h
  next hz =>
    obtain ⟨hfl, hjob, hcb, hdl⟩ := hz
    refine ⟨(Except.ok.inj h).symm, ?_⟩
    rw [encodeN, ← hfl, ← hjob, ← hcb, ← hdl, ← hr, packWord_fields]
  next => exact nomatch h

/-- The flag field of format M is its mode bit, the two bits above it being zero. -/
theorem fl_of_mode {fl : FlagSet} (h : fl.extractLsb' 1 2 = 0#2) : 0#2 ++ BitVec.ofBool (fl.getLsbD 0) = fl := by
  revert fl
  decide

theorem decodeM_ok {mk : Bool → Instr} (h : decodeM w mk = .ok i) (hr : CmdWord.rsv w = 0#5) :
    ∃ mode, i = mk mode ∧ encodeM (CmdWord.op w) mode = w := by
  unfold decodeM at h
  split at h
  next hz =>
    obtain ⟨hfl, hjob, hcb, hdl⟩ := hz
    refine ⟨_, (Except.ok.inj h).symm, ?_⟩
    rw [encodeM, fl_of_mode hfl, ← hjob, ← hcb, ← hdl, ← hr, packWord_fields]
  next => exact nomatch h

theorem decodeJ_ok {p : Params} {mk : JobId → Instr} (h : decodeJ p w mk = .ok i) (hr : CmdWord.rsv w = 0#5) :
    ∃ j, i = mk j ∧ jobLegal p j = true ∧ packWord 0#64 0#32 j 0#5 0#3 (CmdWord.op w) = w := by
  unfold decodeJ at h
  split at h
  next hz =>
    obtain ⟨hfl, hcb, hdl⟩ := hz
    split at h
    next hj => exact ⟨_, (Except.ok.inj h).symm, hj, by rw [← hfl, ← hcb, ← hdl, ← hr, packWord_fields]⟩
    next => exact nomatch h
  next => exact nomatch h

theorem decodeS_ok {p : Params} {mk : JobId → Tick → CbId → FlagSet → Instr} (h : decodeS p w mk = .ok i)
    (hr : CmdWord.rsv w = 0#5) :
    ∃ j dl cb fl, i = mk j dl cb fl ∧ jobLegal p j = true ∧ cbLegal cb = true
      ∧ packWord (0#32 ++ dl) cb j 0#5 fl (CmdWord.op w) = w := by
  unfold decodeS at h
  split at h
  next hz =>
    split at h
    next hj =>
      split at h
      next hcb =>
        refine ⟨_, _, _, _, (Except.ok.inj h).symm, hj, hcb, ?_⟩
        have hdl : 0#32 ++ (CmdWord.dl w).extractLsb' 0 32 = CmdWord.dl w := by
          rw [← hz]
          exact BitVec.extractLsb'_append_extractLsb'
        rw [hdl, ← hr, packWord_fields]
      next => exact nomatch h
    next => exact nomatch h
  next => exact nomatch h

theorem decodeX_ok {p : Params} {mk : JobId → XTime → CbId → Instr} (h : decodeX p w mk = .ok i)
    (hr : CmdWord.rsv w = 0#5) :
    ∃ j xdl cb, i = mk j xdl cb ∧ jobLegal p j = true ∧ cbLegal cb = true
      ∧ packWord xdl cb j 0#5 0#3 (CmdWord.op w) = w := by
  unfold decodeX at h
  split at h
  next hfl =>
    split at h
    next hj =>
      split at h
      next hcb => exact ⟨_, _, _, (Except.ok.inj h).symm, hj, hcb, by rw [← hfl, ← hr, packWord_fields]⟩
      next => exact nomatch h
    next => exact nomatch h
  next => exact nomatch h

end

/-- What the decoder accepts has its reserved bits zero (R95 step 1). -/
theorem rsv_of_decode_ok {w : CmdWord} {i : Instr} (h : decode w = .ok i) : CmdWord.rsv w = 0#5 := by
  by_contra hr
  rw [decode_reserved hr] at h
  exact nomatch h

/-- Settles O2: each code of the operation map (R87) leads to one format, and a word that passes the format's checks is
packed from the operands read. -/
theorem encodeOfDecode : Obligations.EncodeOfDecode := by
  intro w i h
  have hr := rsv_of_decode_ok h
  have hop {n : Nat} (hn : (CmdWord.op w).toNat = n) : CmdWord.op w = BitVec.ofNat 8 n := by
    rw [← hn, BitVec.ofNat_toNat, BitVec.setWidth_eq]
  simp only [decode, decodeWith, hr, ne_eq, not_true_eq_false, if_false] at h
  split at h
  case h_3 hcode =>
    obtain ⟨j, dl, cb, fl, rfl, hj, hcb, hw⟩ := decodeS_ok h hr
    rw [hop hcode] at hw
    exact ⟨Bool.and_eq_true_iff.mpr ⟨hj, hcb⟩, congrArg some hw⟩
  case h_4 hcode =>
    obtain ⟨j, rfl, hj, hw⟩ := decodeJ_ok h hr
    rw [hop hcode] at hw
    exact ⟨hj, congrArg some hw⟩
  case h_5 hcode =>
    obtain ⟨j, xdl, cb, rfl, hj, hcb, hw⟩ := decodeX_ok h hr
    rw [hop hcode] at hw
    exact ⟨Bool.and_eq_true_iff.mpr ⟨hj, hcb⟩, congrArg some hw⟩
  case h_12 hcode | h_13 hcode =>
    obtain ⟨mode, rfl, hw⟩ := decodeM_ok h hr
    rw [hop hcode] at hw
    exact ⟨rfl, congrArg some hw⟩
  case h_16 => exact nomatch h
  all_goals
    rename_i hcode
    obtain ⟨rfl, hw⟩ := decodeN_ok h hr
    rw [hop hcode] at hw
    exact ⟨rfl, congrArg some hw⟩

/-! ## Chip commands (R100, R203) -/

theorem opcodes_nodup : (OpcName.all.map Config.params.opc).Nodup := by
  have h := params_ok
  simp only [Params.ok, Bool.and_eq_true, decide_eq_true_eq] at h
  tauto

theorem opcName_mem_all (n : OpcName) : n ∈ OpcName.all := by
  cases n <;> decide

theorem opc_injective : Function.Injective Config.params.opc := by
  intro m n h
  exact List.inj_on_of_nodup_map opcodes_nodup (opcName_mem_all m) (opcName_mem_all n) h

/-- Settles O3: the opcode bytes are pairwise distinct, so the one row whose byte matches is the row itself. -/
theorem opcodeByteIdentifies : Obligations.OpcodeByteIdentifies := by
  intro n
  have hone : (fun m => Config.params.opc m == Config.params.opc n) = (· == n) := by
    funext m
    rw [Bool.eq_iff_iff, beq_iff_eq, beq_iff_eq]
    exact opc_injective.eq_iff
  rw [identifyOpc, identifyOpcWith, hone]
  cases n <;> rfl

/-- Settles O4: six words of R106 and 95_test_vectors.md, evaluated. -/
theorem specWordsDecode : Obligations.SpecWordsDecode := by
  refine ⟨rfl, rfl, rfl, rfl, rfl, rfl⟩

end Sys2Proof.Machine
end

section
/-!
PROOF. Assertions that operations keep, whatever the other agents do. An assertion is checked against the few things that
lines are made of (time, the nesting, the frame, the queue, the registers of the driver and of the run loop); that every
operation keeps it then follows along the operation's lines, once for all assertions.
-/

namespace Sys2Proof.Machine

/-! ## Assertions kept along an operation -/

/-- From I the operation ends in I, or stops in E. -/
abbrev Op.Keeps {α : Type} (I E : State → Prop) (m : Op α) : Prop := Op.Spec I m (fun _ => I) E

section
variable {α β : Type} {I E P Q : State → Prop}

theorem Op.keeps_pure (a : α) : Op.Keeps I E (pure a : Op α) := Op.spec_pure fun _ h => h

theorem Op.keeps_rd (f : State → α) : Op.Keeps I E (rd f) := Op.spec_rd fun _ h => h

theorem Op.keeps_upd {f : State → State} (h : ∀ s, I s → I (f s)) : Op.Keeps I E (upd f) := Op.spec_upd h

theorem Op.spec_raise {Q : α → State → Prop} {c : FaultCode} (h : ∀ s, P s → E (s.hardFault c)) :
    Op.Spec P (raise c : Op α) Q E :=
  fun s hs => h s hs

theorem Op.spec_ite {c : Prop} [Decidable c] {a b : Op α} {Q : α → State → Prop} (ha : c → Op.Spec P a Q E)
    (hb : ¬c → Op.Spec P b Q E) : Op.Spec P (if c then a else b) Q E := by
  split
  next hc => exact ha hc
  next hc => exact hb hc

/-- One line, an interaction point, and the lines after it. -/
theorem Op.spec_line {m : Op α} {k : Op β} {R : β → State → Prop} (hm : Op.Spec P m (fun _ => Q) E)
    (htau : Op.Keeps Q E tau) (hk : Op.Spec Q k R E) : Op.Spec P (m >>= fun _ => tau >>= fun _ => k) R E :=
  Op.spec_bind hm fun _ => Op.spec_bind htau fun _ => hk

/-- Two assertions of one operation; where it stops, one of them speaks. -/
theorem Op.spec_and {m : Op α} {P P' : State → Prop} {Q Q' : α → State → Prop} {E' : State → Prop}
    (h : Op.Spec P m Q E) (h' : Op.Spec P' m Q' E') :
    Op.Spec (fun s => P s ∧ P' s) m (fun a s => Q a s ∧ Q' a s) (fun s => E s ∧ E' s) := by
  intro s ⟨hs, hs'⟩
  have h1 := h s hs
  have h2 := h' s hs'
  cases hm : m s <;> simp only [hm] at h1 h2 <;> exact ⟨h1, h2⟩

end

/-! ## Time passing (R70, R115, R276, R282, R283) -/

/-- An interaction point at which something is scripted: the events happen, and a fault ends the operation. -/
theorem tau_cons {s : State} {es : List EnvEvent} {rest : List (List EnvEvent)} (h : s.moments = es :: rest) :
    tau s = if (State.envEvents es { s with moments := rest }).fault = true
      then .error .fatal (State.envEvents es { s with moments := rest })
      else .ok () (State.envEvents es { s with moments := rest }) := by
  simp only [tau, h]

/-- t is s but for the clock, the interaction points still to come, and the trace. -/
def ClockWrite (s t : State) : Prop := t = { s with xtime := t.xtime, moments := t.moments, trace := t.trace }

/-- Time and the nesting keep I. -/
structure ClockKept (I : State → Prop) : Prop where
  write : ∀ s t, ClockWrite s t → I s → I t
  fault : ∀ s c, I s → I (s.hardFault c)
  edge : ∀ s, I s → I (State.serveIrq { s with irqPend := true })
  raised : ∀ s, I s → s.irqNest ≠ NEST_MAX → I { s with irqNest := s.irqNest + 1 }
  lowered : ∀ s, I s → s.irqNest ≠ 0#8 → s.irqNest ≠ 1#8 → I { s with irqNest := s.irqNest - 1 }
  released : ∀ s, I s → s.irqNest = 1#8 →
    I (State.serveIrq { s with irqNest := 0#8, trace := s.trace ++ [.irqMask false] })

/-- An assertion that is not about the nesting and the latch, and that RIRQ keeps. -/
theorem ClockKept.of_rirq {I : State → Prop}
    (hwrite : ∀ s t : State, t = { s with
      xtime := t.xtime, moments := t.moments, trace := t.trace, irqNest := t.irqNest, irqPend := t.irqPend } → I s → I t)
    (hfault : ∀ s c, I s → I (s.hardFault c)) (hrirq : ∀ s, I s → I s.rirq) : ClockKept I := by
  have hserve (s : State) (h : I s) : I s.serveIrq := by
    unfold State.serveIrq
    split
    next => exact hrirq s h
    next => exact h
  exact {
    write := fun s t ht => hwrite s t (by rw [ht])
    fault := hfault
    edge := fun s h => hserve _ (hwrite s _ rfl h)
    raised := fun s h _ => hwrite s _ rfl h
    lowered := fun s h _ _ => hwrite s _ rfl h
    released := fun s h _ => hserve _ (hwrite s _ rfl h) }

/-- What every operation is made of: interaction points, events and the fatal entry. -/
structure TimeKept (I E : State → Prop) : Prop where
  tau : Op.Keeps I E tau
  fault : ∀ s c, I s → E (s.hardFault c)
  emit : ∀ s e, I s → I (s.emit e)

/-- And the nesting primitives (R180, R181). -/
structure NestKept (I E : State → Prop) : Prop extends TimeKept I E where
  disable : Op.Keeps I E irqDisable
  enable : Op.Keeps I E irqEnable

section
variable {I E : State → Prop} (h : ClockKept I)
include h

theorem ClockKept.envEvent (e : EnvEvent) (s : State) (hs : I s) : I (s.envEvent e) := by
  cases e with
  | clk n => exact h.write s _ rfl hs
  | edge => exact h.edge s hs
  | wdg =>
    show I (if s.wdArmed then s.hardFault .watchdog else s)
    split
    next => exact h.fault s _ hs
    next => exact hs

theorem ClockKept.envEvents (es : List EnvEvent) (s : State) (hs : I s) : I (s.envEvents es) := by
  unfold State.envEvents
  induction es generalizing s with
  | nil => exact hs
  | cons e es ih => exact ih _ (h.envEvent e s hs)

variable (hE : ∀ s, I s → s.fault = true → E s)
include hE

theorem ClockKept.tau : Op.Keeps I E tau := by
  intro s hs
  cases hm : s.moments with
  | nil =>
    rw [tau_quiet hm]
    exact hs
  | cons es rest =>
    have ht := h.envEvents es { s with moments := rest } (h.write s _ rfl hs)
    rw [tau_cons hm]
    by_cases hf : (State.envEvents es { s with moments := rest }).fault = true
    · rw [if_pos hf]
      exact hE _ ht hf
    · rw [if_neg hf]
      exact ht

theorem ClockKept.hardFault (s : State) (c : FaultCode) (hs : I s) : E (s.hardFault c) :=
  hE _ (h.fault s c hs) (State.hardFault_fault s c)

theorem ClockKept.disable : Op.Keeps I E irqDisable := by
  intro s hs
  by_cases hmax : s.irqNest = NEST_MAX
  · rw [irqDisable_max hmax]
    exact h.hardFault hE s _ hs
  · rw [irqDisable_ok hmax]
    exact h.write { s with irqNest := s.irqNest + 1 } _ rfl (h.raised s hs hmax)

theorem ClockKept.enable : Op.Keeps I E irqEnable := by
  intro s hs
  by_cases h0 : s.irqNest = 0#8
  · rw [irqEnable_zero h0]
    exact h.hardFault hE s _ hs
  · unfold irqEnable
    rw [if_neg h0]
    by_cases h1 : s.irqNest = 1#8
    · have hz : s.irqNest - 1 = 0#8 := (nest_pred_eq_zero _).mpr h1
      simp only [hz, if_true]
      exact h.released s hs h1
    · have hz : s.irqNest - 1 ≠ 0#8 := fun hc => h1 ((nest_pred_eq_zero _).mp hc)
      simp only [hz, if_false]
      exact h.lowered s hs h0 h1

theorem ClockKept.waitDueWith (d : Tick) (ms : List (List EnvEvent)) : Op.Keeps I E (waitDueWith d ms) := by
  induction ms with
  | nil => exact fun s hs => h.write s _ rfl hs
  | cons es rest ih =>
    intro s hs
    by_cases hd : due d s.tick = true
    · simp only [Machine.waitDueWith, hd, if_true]
      exact h.write s _ rfl hs
    · simp only [Machine.waitDueWith, hd]
      have ht := h.envEvents es { s with moments := rest } (h.write s _ rfl hs)
      by_cases hf : (State.envEvents es { s with moments := rest }).fault = true
      · simp only [hf, if_true]
        exact hE _ ht hf
      · simp only [hf]
        exact ih _ ht

theorem ClockKept.wait (d : Tick) : Op.Keeps I E (waitDue d) := fun s hs => h.waitDueWith hE d s.moments s hs

theorem ClockKept.nestKept : NestKept I E where
  tau := h.tau hE
  fault := h.hardFault hE
  emit s _ hs := h.write s _ rfl hs
  disable := h.disable hE
  enable := h.enable hE

end

/-! ## The frame (R190) -/

/-- t is s but for what CHIP and the lines of a frame write, RSLEEP and a released chip-select apart. -/
def FrameWrite (s t : State) : Prop :=
  t = { s with
    trace := t.trace, cs := t.cs, busyIn := t.busyIn, chipIn := t.chipIn, draws := t.draws, busData := t.busData }

/-- Frames go from I to Q through M, which holds while chip-select is asserted. -/
structure FrameKept (I M Q E : State → Prop) : Prop where
  tau : Op.Keeps M E tau
  start : ∀ s, I s → M { s with rsleep := false }
  write : ∀ s t, FrameWrite s t → M s → M t
  hang : ∀ s, M s → E { s with hung := true }
  done : ∀ s t, FrameWrite s t → t.cs = .deasserted → M s → Q t

section
variable {I M Q E : State → Prop} (h : FrameKept I M Q E)
include h

theorem FrameKept.shows (e : Event) : Op.Keeps M E (emit e) := Op.keeps_upd fun s hs => h.write s _ rfl hs

theorem FrameKept.xfer (o : Byte) : Op.Keeps M E (xfer o) := by
  refine Op.spec_bind (h.shows _) fun _ s hs => ?_
  cases hc : s.chipIn with
  | nil =>
    simp only [nextByte, hc]
    exact h.write s _ rfl hs
  | cons b rest =>
    simp only [nextByte, hc]
    exact h.write s _ rfl hs

theorem FrameKept.busyPolls (n : Nat) : Op.Keeps M E (busyPolls n) := by
  induction n with
  | zero => exact Op.keeps_pure ()
  | succ n ih => exact Op.spec_line (h.shows _) h.tau ih

theorem FrameKept.busyWait : Op.Keeps M E busyWait := by
  refine Op.spec_bind (Q := fun _ => M) (fun s hs => ?_) fun b => ?_
  · rw [nextBusy_run]
    refine h.write s _ ?_ hs
    unfold State.afterBusy
    split <;> rfl
  · cases b with
    | none => exact fun s hs => h.hang _ (h.write s (s.emit .busyPoll) rfl hs)
    | some n => exact Op.spec_bind (h.busyPolls n) fun _ => h.shows _

theorem FrameKept.sendAll (l : List Byte) : Op.Keeps M E (sendAll l) := by
  induction l with
  | nil => exact Op.keeps_pure ()
  | cons o rest ih => exact Op.spec_line (h.xfer o) h.tau ih

theorem FrameKept.recvAll (n : Nat) : Op.Keeps M E (recvAll n) := by
  induction n with
  | zero => exact Op.keeps_pure []
  | succ n ih =>
    exact Op.spec_bind (h.xfer _) fun _ => Op.spec_bind h.tau fun _ => Op.spec_bind ih fun _ => Op.keeps_pure _

theorem FrameKept.readStatus (st : Bool) : Op.Keeps M E (readStatus st) :=
  Op.spec_ite (fun _ => Op.spec_bind (h.xfer _) fun _ => h.tau) fun _ => Op.keeps_pure ()

theorem FrameKept.frame (op : Byte) (out : List Byte) (st : Bool) (nin : Nat) :
    Op.Spec I (busFrame op out st nin) (fun _ => Q) E :=
  Op.spec_line (Op.spec_upd h.start) h.tau <|
  Op.spec_line (Op.keeps_upd fun s hs => h.write s _ rfl hs) h.tau <|
  Op.spec_line h.busyWait h.tau <|
  Op.spec_line (h.xfer op) h.tau <|
  Op.spec_bind (h.sendAll out) fun _ =>
  Op.spec_bind (h.readStatus st) fun _ =>
  Op.spec_bind (h.recvAll nin) fun _ =>
  Op.spec_bind (Q := fun _ => Q) (Op.spec_upd fun s hs => h.done s _ rfl rfl hs) fun _ =>
  Op.spec_pure fun _ hs => hs

end

end Sys2Proof.Machine
end

section
/-!
PROOF. What each operation keeps, along its lines: the driver (44_radio.md), the scheduler (41_scheduler.md) and the run loop
(42_runloop.md), whatever the other agents do at their interaction points.
-/

namespace Sys2Proof.Machine

section
variable {α : Type} {I E P Q : State → Prop} {R : α → State → Prop}

/-- One line, the interaction point after it, and the lines that follow. -/
theorem TimeKept.line (h : TimeKept Q E) {m : Op Unit} {k : Op α} (hm : Op.Spec P m (fun _ => Q) E)
    (hk : Op.Spec Q k R E) : Op.Spec P (m >>= fun _ => Machine.tau >>= fun _ => k) R E :=
  Op.spec_line hm h.tau hk

theorem TimeKept.shows (h : TimeKept I E) (e : Event) : Op.Keeps I E (Machine.emit e) :=
  Op.keeps_upd fun s => h.emit s e

/-- A line that reads state. -/
theorem Op.spec_read {β : Type} {f : State → β} {k : β → Op α} (hk : ∀ b, Op.Spec P (k b) R E) :
    Op.Spec P (rd f >>= k) R E :=
  Op.spec_bind (Op.keeps_rd f) hk

theorem Op.keeps_of_spec_ite {c : Prop} [Decidable c] {m : Op Unit} (h : c → Op.Keeps I E m) :
    Op.Keeps I E (if c then m else pure ()) :=
  Op.spec_ite h fun _ => Op.keeps_pure ()

end

/-! ## The driver (44_radio.md) -/

/-- t is s but for the pins and the trace (R45). -/
def PinWrite (s t : State) : Prop := t = { s with rst := t.rst, ant := t.ant, tcxo := t.tcxo, trace := t.trace }

/-- t is s but for the pins, ROP, CHIPMODE and the trace (R215). -/
def DriverWrite (s t : State) : Prop :=
  t = { s with rop := t.rop, chipMode := t.chipMode, rst := t.rst, ant := t.ant, tcxo := t.tcxo, trace := t.trace }

/-- t is s but for the results of a completion: fields of R42, and FRAME from address 0 (R248, R249, R251). -/
def ResultWrite (s t : State) : Prop :=
  t = { s with
    frame := t.frame
    rcfg := { s.rcfg with
      datalen := t.rcfg.datalen, txend := t.rcfg.txend, rxend := t.rcfg.rxend, rxstart := t.rcfg.rxstart
      rssi := t.rcfg.rssi, snr := t.rcfg.snr, timedout := t.rcfg.timedout } }
    ∧ ∃ d, t.frame = Memory.writeFrom s.frame 0 d

/-- What the lines of the driver are made of goes from P to I at the first frame, and keeps I from there. -/
structure DriverLines (P I E : State → Prop) : Prop where
  before : TimeKept P E
  pins : ∀ s t, PinWrite s t → P s → P t
  first : ∀ op out st nin, Op.Spec P (busFrame op out st nin) (fun _ => I) E
  wake : ∀ s, P s → I { s with rsleep := false }
  time : TimeKept I E
  wait : ∀ d, Op.Keeps I E (waitDue d)
  frame : ∀ op out st nin, Op.Keeps I E (busFrame op out st nin)
  write : ∀ s t, DriverWrite s t → I s → I t

section
variable {P I E : State → Prop} (h : DriverLines P I E)
include h

theorem DriverLines.set {f : State → State} (hf : ∀ s, DriverWrite s (f s)) : Op.Keeps I E (upd f) :=
  Op.keeps_upd fun s hs => h.write s _ (hf s) hs

theorem DriverLines.pin {f : State → State} (hf : ∀ s, PinWrite s (f s)) : Op.Keeps P E (upd f) :=
  Op.keeps_upd fun s hs => h.pins s _ (hf s) hs

theorem DriverLines.setAnt (v : AntPath) : Op.Keeps I E (setAnt v) := h.set fun _ => rfl
theorem DriverLines.setTcxo (v : Bool) : Op.Keeps I E (setTcxo v) := h.set fun _ => rfl
theorem DriverLines.setChipMode (m : ChipMode) : Op.Keeps I E (setChipMode m) := h.set fun _ => rfl
theorem DriverLines.setRadio (o : Rop) (m : ChipMode) : Op.Keeps I E (setRadio o m) := h.set fun _ => rfl

theorem DriverLines.firstBcmd (op : Byte) (p : List Byte) : Op.Spec P (bcmdOp op p) (fun _ => I) E :=
  Op.spec_bind (h.first op p false 0) fun _ => Op.keeps_pure ()

theorem DriverLines.bcmd (op : Byte) (p : List Byte) : Op.Keeps I E (bcmdOp op p) :=
  Op.spec_bind (h.frame op p false 0) fun _ => Op.keeps_pure ()

/-- A bare command whose payload is read from RCFG. -/
theorem DriverLines.bcmd_rcfg (op : Byte) (f : Rcfg → List Byte) :
    Op.Keeps I E (rd State.rcfg >>= fun r => bcmdOp op (f r)) :=
  Op.spec_read fun _ => h.bcmd _ _

theorem DriverLines.wreg (p : Params) (a : ChipAddr) (v : List Byte) : Op.Keeps I E (wreg p a v) := h.bcmd _ _

theorem DriverLines.auxFrames (fs : List (Byte × List Byte)) : Op.Keeps I E (auxFrames fs) := by
  induction fs with
  | nil => exact Op.keeps_pure ()
  | cons f rest ih => exact h.time.line (h.bcmd _ _) ih

theorem DriverLines.tcxoOn (p : Params) : Op.Keeps I E (tcxoOn p) := Op.keeps_of_spec_ite fun _ => h.setTcxo true

theorem DriverLines.fskRegisters (p : Params) : Op.Keeps I E (fskRegisters p) :=
  Op.spec_read fun _ => Op.keeps_of_spec_ite fun _ =>
    h.time.line (h.wreg p _ _) <| h.time.line (h.wreg p _ _) (h.wreg p _ _)

theorem DriverLines.syncRegister (p : Params) : Op.Keeps I E (syncRegister p) :=
  Op.spec_read fun _ => h.wreg p _ _

theorem DriverLines.configure (p : Params) (dir : Dir) : Op.Spec P (configure p dir) (fun _ => I) E :=
  Op.spec_bind (h.firstBcmd _ _) fun _ =>
  h.time.line (h.setChipMode _) <|
  h.time.line (h.bcmd _ _) <|
  h.time.line (h.tcxoOn p) <|
  h.time.line (h.auxFrames _) <|
  h.time.line (h.bcmd_rcfg _ _) <|
  h.time.line (h.bcmd_rcfg _ _) <|
  h.time.line (h.bcmd_rcfg _ _) <|
  h.time.line (h.bcmd_rcfg _ fun r => pktBytes p r dir) <|
  h.time.line (h.syncRegister p) <|
  h.time.line (h.fskRegisters p) <|
  h.time.line (h.bcmd _ _) (h.bcmd _ _)

theorem DriverLines.rinit (p : Params) : Op.Spec P (rinitOp p) (fun _ => I) E := by
  have hcheck : Op.Spec P (resetAndCheck p) (fun _ => I) E :=
    h.before.line (h.pin fun _ => rfl) <|
    h.before.line (h.pin fun _ => rfl) <|
    Op.spec_bind (h.first _ _ _ _) fun _ =>
    Op.spec_bind h.time.tau fun _ =>
    Op.spec_ite (fun _ => h.setChipMode _) fun _ => Op.spec_raise fun s => h.time.fault s _
  have hnone : Op.Spec P initUnchecked (fun _ => I) E :=
    Op.spec_upd fun s hs => h.write { s with rsleep := false } _ rfl (h.wake s hs)
  exact h.time.line (Op.spec_ite (fun _ => hcheck) fun _ => hnone) <|
    h.time.line (h.set fun _ => rfl) (h.time.shows _)

theorem DriverLines.rtx (p : Params) (mode : Bool) : Op.Spec P (rtxOp p mode) (fun _ => I) E :=
  h.time.line (h.configure p .tx) <|
  h.time.line (Op.spec_ite (fun _ => Op.keeps_pure ()) fun _ => Op.spec_read fun _ => h.bcmd _ _) <|
  h.time.line (h.bcmd_rcfg _ fun r => powBytes p (clampPower p r.txpow)) <|
  h.time.line (h.setAnt _) <|
  h.time.line (Op.spec_ite (fun _ => Op.spec_bind (h.bcmd _ _) fun _ => h.setRadio _ _)
    fun _ => Op.spec_bind (h.bcmd _ _) fun _ => h.setRadio _ _) <|
  h.time.shows _

theorem DriverLines.timingCheck : Op.Keeps I E timingCheck :=
  Op.spec_read fun _ => Op.spec_read fun _ => Op.keeps_of_spec_ite fun _ => h.time.shows _

/-- Single-shot receive runs suppressed: it goes from J through I back to J (R232). -/
theorem DriverLines.armSingle {J : State → Prop} (hlock : Op.Spec J irqDisable (fun _ => I) E)
    (hunlock : Op.Spec I irqEnable (fun _ => J) E) (p : Params) : Op.Keeps J E (armSingle p) :=
  h.time.line hlock <|
  h.time.line h.timingCheck <|
  Op.spec_read fun _ =>
  Op.spec_bind (h.wait _) fun _ =>
  h.time.line (h.setAnt _) <|
  h.time.line (h.bcmd _ _) <|
  h.time.line (h.setRadio _ _) hunlock

theorem DriverLines.armContinuous (p : Params) : Op.Keeps I E (armContinuous p) :=
  h.time.line (h.setAnt _) <| Op.spec_bind (h.bcmd _ _) fun _ => h.setRadio _ _

theorem DriverLines.rrx {p : Params} (hsingle : Op.Keeps I E (Machine.armSingle p)) (mode : Bool) :
    Op.Spec P (rrxOp p mode) (fun _ => I) E :=
  h.time.line (h.configure p .rx) <|
  h.time.line (Op.spec_read fun _ => Op.keeps_of_spec_ite fun _ => h.wreg p _ _) <|
  Op.spec_bind (h.bcmd _ _) fun _ =>
  h.time.line (h.setChipMode _) <|
  h.time.line (Op.spec_ite (fun _ => h.armContinuous p) fun _ => hsingle) <|
  h.time.shows _

/-- RSLEEP ends where it began: its flag is set after the frame, and only pins move from there. -/
theorem DriverLines.rsleep (hsleep : ∀ s, I s → P { s with rsleep := true, rop := .idle, chipMode := .sleep })
    (p : Params) : Op.Keeps P E (rsleepOp p) := by
  have hoff : Op.Keeps P E (Machine.setTcxo false) := h.pin fun _ => rfl
  have henter : Op.Keeps P E (enterSleep p) :=
    h.time.line (h.firstBcmd _ _) <|
    h.before.line (Op.spec_upd hsleep) <|
    h.before.line (h.pin fun _ => rfl) <|
    Op.spec_bind (Op.keeps_of_spec_ite fun _ => hoff) fun _ => h.before.tau
  exact Op.spec_read fun _ =>
    Op.spec_bind (Op.spec_ite (fun _ => Op.keeps_pure ()) fun _ => henter) fun _ => h.before.shows _

theorem DriverLines.rrand (hrand : ∀ s r, I s → I { s with rcfg := { s.rcfg with rand := r } }) (p : Params) :
    Op.Spec P (rrandOp p) (fun _ => I) E :=
  Op.spec_bind (h.firstBcmd _ _) fun _ =>
  h.time.line (h.setRadio _ _) <|
  h.time.line (h.bcmd _ _) <|
  h.time.line (h.bcmd _ _) <|
  h.time.line (h.setAnt _) <|
  Op.spec_bind (h.bcmd _ _) fun _ =>
  h.time.line (h.setChipMode _) <|
  Op.spec_bind (Op.spec_read fun _ => h.wait _) fun _ =>
  Op.spec_bind (h.frame _ _ _ _) fun _ =>
  Op.spec_bind h.time.tau fun _ =>
  Op.spec_bind (h.bcmd _ _) fun _ =>
  h.time.line (h.setChipMode _) <|
  h.time.line (h.setAnt _) <|
  h.time.line (Op.keeps_upd fun s => hrand s _) <|
  h.time.shows _

/-- RPROC: results are written after the status frame, and the completion hands over to HOST (R250). -/
theorem DriverLines.rproc {D : State → Prop} (hresult : ∀ s t, ResultWrite s t → I s → I t)
    (hdone : ∀ s e, I s → D { s.emit e with rlState := .dispatching }) (p : Params) :
    Op.Spec P (rprocOp p) (fun _ => D) E := by
  have hset {f : State → State} (hf : ∀ s, ResultWrite s (f s)) : Op.Keeps I E (upd f) :=
    Op.keeps_upd fun s hs => hresult s _ (hf s) hs
  have hrx : Op.Keeps I E (rxDone p) :=
    Op.spec_bind (h.frame _ _ _ _) fun _ =>
    Op.spec_bind h.time.tau fun _ =>
    h.time.line (hset fun _ => ⟨rfl, [], rfl⟩) <|
    Op.spec_bind (h.frame _ _ _ _) fun _ =>
    Op.spec_bind h.time.tau fun _ =>
    Op.spec_bind (h.frame _ _ _ _) fun d =>
    h.time.line (hset fun _ => ⟨rfl, d, rfl⟩) <|
    h.time.line (hset fun _ => ⟨rfl, [], rfl⟩) <|
    h.time.line (hset fun _ => ⟨rfl, [], rfl⟩) <|
    hset fun _ => ⟨rfl, [], rfl⟩
  have hcomplete : Op.Spec I complete (fun _ => D) E :=
    Op.spec_read fun _ =>
    Op.spec_bind h.time.tau fun _ =>
    h.time.line (h.setChipMode _) <|
    h.time.line (h.setAnt _) <|
    h.time.line (h.set fun _ => rfl) <|
    Op.spec_upd fun s hs => hdone s _ hs
  have hstatus (o : Rop) (st : BitVec 16) : Op.Spec I (processStatus p o st) (fun _ => D) E :=
    Op.spec_ite (fun _ => Op.spec_raise fun s => h.time.fault s _) fun _ =>
      h.time.line (Op.spec_ite
        (fun _ => Op.spec_ite (fun _ => hset fun _ => ⟨rfl, [], rfl⟩) fun _ => hrx)
        fun _ => hset fun _ => ⟨rfl, [], rfl⟩) hcomplete
  exact Op.spec_read fun _ =>
    Op.spec_ite (fun _ => Op.spec_raise fun s => h.before.fault s _) fun _ =>
    Op.spec_bind h.before.tau fun _ =>
    Op.spec_bind (h.first _ _ _ _) fun _ =>
    Op.spec_bind h.time.tau fun _ => hstatus _ _

end

/-- The lines of the driver, single-shot receive with its nesting included. -/
structure DriverKept (P I E : State → Prop) : Prop extends DriverLines P I E where
  single : ∀ p, Op.Keeps I E (Machine.armSingle p)

theorem DriverLines.kept {P I E : State → Prop} (h : DriverLines P I E) (hn : NestKept I E) : DriverKept P I E where
  toDriverLines := h
  single := h.armSingle hn.disable hn.enable

/-! ## The scheduler (41_scheduler.md) -/

/-- What the lines of the scheduler are made of keeps I; lines 3 to 9 of SCHED only where interrupts are suppressed, as they
are there (R136). -/
structure QueueKept (I E : State → Prop) : Prop where
  time : NestKept I E
  unlink : ∀ s j, I s → I (s.unlink j)
  ext : ∀ s j xdl xcb, I s → I (s.writeExt j xdl xcb)
  locked : ∀ now j dl cb fl, Op.Keeps (fun s => I s ∧ s.irqNest ≠ 0#8) E (scheduleOp now j dl cb fl)

@[simp] theorem State.serveIrq_irqNest (s : State) : s.serveIrq.irqNest = s.irqNest := by
  unfold State.serveIrq
  split
  next => exact State.rirq_irqNest s
  next => rfl

/-- The other agents do not move the nesting. -/
@[simp] theorem State.envEvents_irqNest (es : List EnvEvent) (s : State) : (s.envEvents es).irqNest = s.irqNest := by
  unfold State.envEvents
  induction es generalizing s with
  | nil => rfl
  | cons e es ih =>
    rw [List.foldl_cons, ih]
    cases e with
    | clk n => rfl
    | edge => exact State.serveIrq_irqNest _
    | wdg =>
      show (if s.wdArmed then s.hardFault .watchdog else s).irqNest = s.irqNest
      split <;> simp

section
variable {I E : State → Prop}

theorem TimeKept.lockedTau (h : TimeKept I E) : Op.Keeps (fun s => I s ∧ s.irqNest ≠ 0#8) E Machine.tau := by
  intro s ⟨hs, hn⟩
  have ht := h.tau s hs
  cases hm : s.moments with
  | nil =>
    rw [tau_quiet hm]
    exact ⟨hs, hn⟩
  | cons es rest =>
    rw [tau_cons hm] at ht ⊢
    by_cases hf : (State.envEvents es { s with moments := rest }).fault = true
    · rw [if_pos hf] at ht ⊢
      exact ht
    · rw [if_neg hf] at ht ⊢
      exact ⟨ht, by rw [State.envEvents_irqNest]; exact hn⟩

/-- After a disable interrupts are suppressed: the nesting does not wrap (R180). -/
theorem NestKept.lock (h : NestKept I E) : Op.Spec I irqDisable (fun _ s => I s ∧ s.irqNest ≠ 0#8) E := by
  intro s hs
  have ht := h.disable s hs
  by_cases hmax : s.irqNest = NEST_MAX
  · rw [irqDisable_max hmax] at ht ⊢
    exact ht
  · rw [irqDisable_ok hmax] at ht ⊢
    exact ⟨ht, nest_succ_ne_zero hmax⟩

theorem NestKept.unlock (h : NestKept I E) : Op.Spec (fun s => I s ∧ s.irqNest ≠ 0#8) irqEnable (fun _ => I) E :=
  fun s hs => h.enable s hs.1

end

section
variable {I E : State → Prop} (h : QueueKept I E)
include h

theorem QueueKept.schedPrime (now : Tick) (j : JobId) (dl : Tick) (cb : CbId) (fl : FlagSet) :
    Op.Keeps I E (schedPrime now j dl cb fl) :=
  Op.spec_line h.time.lock h.time.lockedTau <|
  Op.spec_line (h.locked now j dl cb fl) h.time.lockedTau h.time.unlock

theorem QueueKept.sched (j : JobId) (dl : Tick) (cb : CbId) (fl : FlagSet) : Op.Keeps I E (schedOp j dl cb fl) :=
  Op.spec_line h.time.lock h.time.lockedTau <|
  Op.spec_read fun _ =>
  Op.spec_bind h.time.lockedTau fun _ =>
  Op.spec_line (h.locked _ j dl cb fl) h.time.lockedTau <|
  Op.spec_line h.time.unlock h.time.tau <|
  h.time.shows _

theorem QueueKept.cancel (j : JobId) : Op.Keeps I E (cancelOp j) :=
  h.time.line h.time.disable <|
  Op.spec_read fun _ =>
  h.time.line (Op.keeps_upd fun s => h.unlink s j) <|
  h.time.line h.time.enable <|
  h.time.shows _

theorem QueueKept.xstep (j : JobId) : Op.Keeps I E (xstepOp j) :=
  h.time.line h.time.disable <|
  Op.spec_read fun _ =>
  Op.spec_bind h.time.tau fun _ =>
  Op.spec_read fun _ =>
  Op.spec_bind h.time.tau fun _ =>
  h.time.line (h.schedPrime _ j _ _ _) h.time.enable

theorem QueueKept.schedx (j : JobId) (xdl : XTime) (cb : CbId) : Op.Keeps I E (schedxOp j xdl cb) :=
  h.time.line h.time.disable <|
  h.time.line (Op.keeps_upd fun s => h.unlink s j) <|
  h.time.line (Op.keeps_upd fun s => h.ext s j xdl cb) <|
  h.time.line (h.xstep j) <|
  h.time.line h.time.enable <|
  h.time.shows _

end

/-! ## Clock reads and nesting commands (40_clock.md, 42_runloop.md) -/

section
variable {I E : State → Prop} (h : TimeKept I E)
include h

theorem TimeKept.gettick : Op.Keeps I E gettickOp :=
  Op.spec_read fun _ => Op.spec_bind h.tau fun _ => h.shows _

theorem TimeKept.getxtime : Op.Keeps I E getxtimeOp :=
  Op.spec_read fun _ => Op.spec_bind h.tau fun _ => h.shows _

end

theorem NestKept.irqdis {I E : State → Prop} (h : NestKept I E) : Op.Keeps I E irqdisOp := h.line h.disable (h.shows _)

theorem NestKept.irqen {I E : State → Prop} (h : NestKept I E) : Op.Keeps I E irqenOp := h.line h.enable (h.shows _)

/-! ## The run loop (42_runloop.md) -/

/-- t is s but for the registers of the run loop and the trace (R32 to R34). -/
def LoopWrite (s t : State) : Prop :=
  t = { s with
    rlState := t.rlState, rlLoop := t.rlLoop, curJob := t.curJob, wdArmed := t.wdArmed, lateCnt := t.lateCnt
    trace := t.trace }

/-- What the lines of the run loop are made of keeps I. -/
structure LoopKept (I E : State → Prop) : Prop where
  time : NestKept I E
  write : ∀ s t, LoopWrite s t → I s → I t

section
variable {I E : State → Prop} (h : LoopKept I E)
include h

theorem LoopKept.set {f : State → State} (hf : ∀ s, LoopWrite s (f s)) : Op.Keeps I E (upd f) :=
  Op.keeps_upd fun s hs => h.write s _ (hf s) hs

theorem LoopKept.runstep : Op.Keeps I E runstepOp :=
  h.time.line h.time.disable <| h.time.line (h.set fun _ => rfl) (h.set fun _ => rfl)

theorem LoopKept.runloop : Op.Keeps I E runloopOp := h.time.line (h.set fun _ => rfl) h.runstep

theorem LoopKept.finish : Op.Keeps I E finishOp := by
  have hdisarm : Op.Keeps I E disarm := h.set fun s => by
    split
    next => rfl
    next => rfl
  exact h.time.line hdisarm <|
    h.time.line (h.set fun _ => rfl) <|
    Op.spec_read fun _ => Op.spec_ite (fun _ => h.runstep) fun _ => h.time.shows _

theorem LoopKept.interrupted : Op.Keeps I E sleepInterrupted :=
  h.time.line (h.set fun _ => rfl) <| h.time.line h.time.enable h.finish

theorem LoopKept.reached (hq : QueueKept I E) {p : Params} (hrproc : Op.Keeps I E (rprocOp p)) (j : JobId) :
    Op.Keeps I E (sleepReached p j) := by
  have hlate (t : Tick) : Op.Keeps I E (lateCheck p j t) := h.set fun s => by
    dsimp only
    split
    next => rfl
    next => rfl
  have hinvoke (cb : CbId) : Op.Keeps I E (invoke p j cb) :=
    Op.spec_ite (fun _ => h.time.line (hq.xstep j) h.finish) fun _ =>
      Op.spec_ite (fun _ => hrproc) fun _ => h.set fun _ => rfl
  exact h.time.line (h.set fun _ => rfl) <|
    h.time.line (Op.keeps_upd fun s => hq.unlink s j) <|
    h.time.line (Op.spec_read fun _ => Op.spec_ite (fun _ => Op.keeps_pure ()) fun _ => h.time.enable) <|
    Op.spec_read fun _ =>
    h.time.line (hlate _) <|
    h.time.line (h.set fun _ => rfl) <|
    Op.spec_read fun _ =>
    Op.spec_bind h.time.tau fun _ => hinvoke _

end

/-! ## Every command (30_encoding.md R87) -/

/-- The commands that R268 puts in the plain class. -/
theorem commandLines_plain {P I E : State → Prop} (ht : NestKept P E) (hq : QueueKept P E) (hd : DriverKept P I E)
    (himp : ∀ s, I s → P s) (hsleep : ∀ s, I s → P { s with rsleep := true, rop := .idle, chipMode := .sleep })
    {i : Instr} {m : Op Unit} (hrand : i = .rrand → ∀ s r, I s → I { s with rcfg := { s.rcfg with rand := r } })
    (hclass : classOf i = .plain) (hm : commandLines i = some m) : Op.Keeps P E m := by
  have hweak {m : Op Unit} (h : Op.Spec P m (fun _ => I) E) : Op.Keeps P E m :=
    Op.spec_weaken h (fun _ hs => hs) (fun _ s hs => himp s hs) fun _ hs => hs
  cases i
  case runstep | runloop | cbret => exact nomatch hclass
  case gettick => obtain rfl := Option.some.inj hm; exact ht.gettick
  case getxtime => obtain rfl := Option.some.inj hm; exact ht.getxtime
  case sched j dl cb fl => obtain rfl := Option.some.inj hm; exact hq.sched j dl cb fl
  case cancel j => obtain rfl := Option.some.inj hm; exact hq.cancel j
  case schedx j xdl cb => obtain rfl := Option.some.inj hm; exact hq.schedx j xdl cb
  case irqdis => obtain rfl := Option.some.inj hm; exact ht.irqdis
  case irqen => obtain rfl := Option.some.inj hm; exact ht.irqen
  case rinit => obtain rfl := Option.some.inj hm; exact hweak (hd.rinit _)
  case rtx mode => obtain rfl := Option.some.inj hm; exact hweak (hd.rtx _ mode)
  case rrx mode => obtain rfl := Option.some.inj hm; exact hweak (hd.rrx (hd.single _) mode)
  case rsleep => obtain rfl := Option.some.inj hm; exact hd.rsleep hsleep _
  case rrand => obtain rfl := Option.some.inj hm; exact hweak (hd.rrand (hrand rfl) _)
  all_goals exact nomatch hm

/-- RUNSTEP, RUNLOOP and CBRET. -/
theorem commandLines_loop {I E : State → Prop} (h : LoopKept I E) {i : Instr} {m : Op Unit} (hclass : classOf i ≠ .plain)
    (hm : commandLines i = some m) : Op.Keeps I E m := by
  cases i
  case runstep => obtain rfl := Option.some.inj hm; exact h.runstep
  case runloop => obtain rfl := Option.some.inj hm; exact h.runloop
  case cbret => obtain rfl := Option.some.inj hm; exact h.finish
  all_goals exact absurd rfl hclass

/-- The fifteen commands. -/
theorem commandLines_kept {P I E : State → Prop} (hq : QueueKept P E) (hl : LoopKept P E) (hd : DriverKept P I E)
    (himp : ∀ s, I s → P s) (hsleep : ∀ s, I s → P { s with rsleep := true, rop := .idle, chipMode := .sleep })
    {i : Instr} {m : Op Unit} (hrand : i = .rrand → ∀ s r, I s → I { s with rcfg := { s.rcfg with rand := r } })
    (hm : commandLines i = some m) : Op.Keeps P E m := by
  by_cases hclass : classOf i = .plain
  · exact commandLines_plain hl.time hq hd himp hsleep hrand hclass hm
  · exact commandLines_loop hl hclass hm

end Sys2Proof.Machine
end

section
/-!
PROOF. What one step can do (00_scope.md R8, R9): inputs are taken, and then one thing happens. Every statement about all
steps goes through this list.
-/

namespace Sys2Proof.Machine

/-! ## Commands as their lines (30_encoding.md R87) -/

theorem exec_command {i : Instr} {m : Op Unit} (h : commandLines i = some m) (s : State) :
    exec i s = command (classOf i) m s := by
  cases i
  case gettick | getxtime | sched | cancel | schedx | runstep | runloop | cbret | irqdis | irqen | rinit | rtx | rrx
      | rsleep | rrand =>
    obtain rfl := Option.some.inj h
    rfl
  all_goals exact nomatch h

theorem isCommand_iff (i : Instr) : i.isCommand = (commandLines i).isSome := by
  cases i <;> rfl

/-- What the decoder answers is a command. -/
theorem commandLines_of_decode {w : CmdWord} {i : Instr} (h : decode w = .ok i) : ∃ m, commandLines i = some m := by
  obtain ⟨-, henc⟩ := encodeOfDecode w i h
  cases i
  case gettick | getxtime | sched | cancel | schedx | runstep | runloop | cbret | irqdis | irqen | rinit | rtx | rrx
      | rsleep | rrand => exact ⟨_, rfl⟩
  all_goals exact nomatch henc

/-! ## The return of a sleep call (R175) -/

theorem sleepReturns_cases (p : Params) (a : SleepAnswer) (s : State) :
    s.sleepReturns p a = s ∨ (s.seqFree ∧ s.rlState = .sleeping
      ∧ ((a = .interrupted ∧ s.sleepReturns p a = runOp sleepInterrupted s)
        ∨ ∃ h rest, a = .reached ∧ s.q = h :: rest ∧ s.sleepReturns p a = runOp (sleepReached p h) s)) := by
  unfold State.sleepReturns
  by_cases hc : (s.fault || s.hung || s.rlState != .sleeping) = true
  · exact .inl (if_pos hc)
  · rw [if_neg hc]
    simp only [Bool.or_eq_true, not_or, Bool.not_eq_true, bne_eq_false_iff_eq] at hc
    obtain ⟨⟨hfault, hhung⟩, hsleep⟩ := hc
    cases a with
    | interrupted => exact .inr ⟨⟨hfault, hhung⟩, hsleep, .inl ⟨rfl, rfl⟩⟩
    | reached =>
      cases hq : s.q with
      | nil => exact .inl rfl
      | cons h rest =>
        by_cases hd : due (s.job h).dl s.tick = true
        · exact .inr ⟨⟨hfault, hhung⟩, hsleep, .inr ⟨h, rest, rfl, rfl, by simp only [hd, if_true]⟩⟩
        · exact .inl (by simp only [hd]; rfl)

/-! ## Everything a step can do -/

/-- u is s but for inputs taken and time passed; HOST's port is read only where it is open (R268). -/
def Taken (s u : State) : Prop :=
  u = { s with turns := u.turns, host := u.host, xtime := u.xtime, draws := u.draws }
    ∧ (u.host = s.host ∨ s.portOpen = true)

/-- What happens in one step, from a state whose inputs are taken. -/
inductive Moves : State → State → Prop where
  | stay (s : State) : Moves s s
  | env (e : EnvEvent) (s : State) : Moves s (s.envEvent e)
  | reset (x : BitVec (XT_W - 1)) (s : State) : Moves s (s.platformReset x)
  | fault (c : FaultCode) (s : State) : Moves s (s.hardFault c)
  | write {w : HostWrite} {s t : State} : s.portOpen = true → hostWrite w s = .next t → Moves s t
  | command {i : Instr} {m : Op Unit} {s : State} :
      commandLines i = some m → s.acceptance (classOf i) = .accepted → Moves s (runOp m s)
  | interrupted {s : State} : s.seqFree → s.rlState = .sleeping → Moves s (runOp sleepInterrupted s)
  | reached {s : State} {h : JobId} {rest : List JobId} : s.seqFree → s.rlState = .sleeping → s.q = h :: rest →
      Moves s (runOp (sleepReached Config.params h) s)

theorem Moves.of_sleepReturns (a : SleepAnswer) (s : State) : Moves s (s.sleepReturns Config.params a) := by
  rcases sleepReturns_cases Config.params a s with h | ⟨hfree, hsleep, ⟨-, h⟩ | ⟨j, rest, -, hq, h⟩⟩
  · rw [h]
    exact .stay s
  · rw [h]
    exact .interrupted hfree hsleep
  · rw [h]
    exact .reached hfree hsleep hq

theorem Moves.of_exec {w : CmdWord} {i : Instr} {s t : State} (hd : decode w = .ok i) (h : exec i s = .next t) :
    Moves s t := by
  obtain ⟨m, hm⟩ := commandLines_of_decode hd
  rw [exec_command hm] at h
  rcases command_cases h with ⟨ha, rfl⟩ | ⟨-, rfl⟩ | ⟨-, rfl⟩
  · exact .command hm ha
  · exact .fault .assertion s
  · exact .stay _

theorem Moves.of_turn {x : Turn} {s : State} : Moves s (State.turn x s) := by
  cases x with
  | env e => exact .env e s
  | sleepReturns a => exact .of_sleepReturns a s
  | platformReset x => exact .reset x s
  | seq => exact .stay s

theorem sleepOn_moves (s : State) : ∃ u, Taken s u ∧ Moves u (s.sleepOn Config.params) := by
  unfold State.sleepOn
  split
  next =>
    refine ⟨s, ⟨rfl, .inl rfl⟩, ?_⟩
    split
    next => exact .of_sleepReturns _ s
    next => exact .stay s
  next h rest _ =>
    dsimp only
    split
    next =>
      refine ⟨_, ⟨?_, .inl ?_⟩, .of_sleepReturns _ _⟩ <;> split <;> rfl
    next =>
      refine ⟨_, ⟨?_, .inl ?_⟩, .of_sleepReturns _ _⟩ <;> split <;> rfl

/-- SEQ's turn. -/
theorem seqStep_moves {s t : State} (h : seqStep s = .next t) : ∃ u, Taken s u ∧ Moves u t := by
  have hsame : Taken s s := ⟨rfl, .inl rfl⟩
  cases ho : s.portOpen with
  | false =>
    rcases readPort_closed ho with hr | hr <;> simp only [seqStep, hr] at h
    · obtain rfl := Host.Outcome.next.inj h
      exact ⟨s, hsame, .stay s⟩
    · obtain rfl := Host.Outcome.next.inj h
      exact sleepOn_moves s
  | true =>
    have hr := readPort_open ho
    cases hh : s.host with
    | nil =>
      rw [hh] at hr
      simp only [seqStep, hr] at h
      obtain rfl := Host.Outcome.next.inj h
      exact ⟨s, hsame, .stay s⟩
    | cons a rest =>
      rw [hh] at hr
      refine ⟨{ s with host := rest }, ⟨rfl, .inr ho⟩, ?_⟩
      cases a with
      | write w =>
        simp only [seqStep, hr] at h
        exact .write (s := { s with host := rest }) ho h
      | cmd w =>
        simp only [seqStep, hr] at h
        split at h
        next i hd => exact .of_exec hd h
        next =>
          obtain rfl := Host.Outcome.next.inj h
          exact .fault .illegalCmd _

/-- One step: inputs are taken, and one thing of the list happens. -/
theorem step_moves {s t : State} (h : step s = .next t) : ∃ u, Taken s u ∧ Moves u t := by
  cases hts : s.turns with
  | nil =>
    rw [step_unscripted hts] at h
    rcases overdue_cases s with ho | ⟨hr, -, ho⟩
    · rw [ho] at h
      exact seqStep_moves h
    · rw [ho] at h
      have hf : readPort (s.hardFault .watchdog) = .nothing := by simp [readPort]
      simp only [seqStep, hf] at h
      obtain rfl := Host.Outcome.next.inj h
      exact ⟨s, ⟨rfl, .inl rfl⟩, .fault .watchdog s⟩
  | cons x ts =>
    by_cases hx : x = .seq
    · rw [step_seq (hx ▸ hts)] at h
      obtain ⟨u, ⟨hu, hhost⟩, hm⟩ := seqStep_moves h
      exact ⟨u, ⟨by rw [hu], hhost⟩, hm⟩
    · rw [step_turn hts hx] at h
      obtain rfl := Host.Outcome.next.inj h
      exact ⟨{ s with turns := ts }, ⟨rfl, .inl rfl⟩, .of_turn⟩

end Sys2Proof.Machine
end

section
/-!
PROOF. The invariants that every step keeps (10_state.md R28 to R30, R43, R44; 44_radio.md R215; 43_bus.md R194), and what no
operation touches: HOST's port, and the shared record outside its owners' fields (10_state.md R40, R61).
-/

namespace Sys2Proof.Machine

/-! ## Assertions about what is stored -/

/-- t is s but for registers: the stores, the queue, the shared record, FAULT and the ports of HOST are as in s. -/
def RegisterWrite (s t : State) : Prop :=
  t = { s with
    xtime := t.xtime, rlState := t.rlState, rlLoop := t.rlLoop, curJob := t.curJob, wdArmed := t.wdArmed
    lateCnt := t.lateCnt, irqNest := t.irqNest, irqPend := t.irqPend, irqTs := t.irqTs, rsleep := t.rsleep, rop := t.rop
    chipMode := t.chipMode, cs := t.cs, rst := t.rst, ant := t.ant, tcxo := t.tcxo, hung := t.hung, trace := t.trace
    moments := t.moments, busyIn := t.busyIn, chipIn := t.chipIn, draws := t.draws, busData := t.busData }

/-- An assertion about what is stored alone, which faults and RIRQ keep. -/
structure StoredKept (I : State → Prop) : Prop where
  write : ∀ s t, RegisterWrite s t → I s → I t
  fault : ∀ s c, I s → I (s.hardFault c)
  rirq : ∀ s, I s → I s.rirq

section
variable {I E : State → Prop} (h : StoredKept I) (hE : ∀ s, I s → E s)
include h

theorem StoredKept.clock : ClockKept I :=
  .of_rirq (fun s t ht => h.write s t (by rw [ht]; rfl)) h.fault h.rirq

include hE

theorem StoredKept.time : NestKept I E := h.clock.nestKept fun s hs _ => hE s hs

theorem StoredKept.frame : FrameKept I I I E where
  tau := (h.time hE).tau
  start s := h.write s _ rfl
  write s t ht := h.write s t (by rw [ht]; rfl)
  hang s hs := hE _ (h.write s _ rfl hs)
  done s t ht _ := h.write s t (by rw [ht]; rfl)

theorem StoredKept.driver : DriverKept I I E :=
  DriverLines.kept {
    before := (h.time hE).toTimeKept
    pins := fun s t ht => h.write s t (by rw [ht]; rfl)
    first := (h.frame hE).frame
    wake := fun s => h.write s _ rfl
    time := (h.time hE).toTimeKept
    wait := h.clock.wait fun s hs _ => hE s hs
    frame := (h.frame hE).frame
    write := fun s t ht => h.write s t (by rw [ht]; rfl) } (h.time hE)

theorem StoredKept.loop : LoopKept I E where
  time := h.time hE
  write s t ht := h.write s t (by rw [ht]; rfl)

end

/-- An assertion that each line of the scheduler keeps on its own. -/
theorem QueueKept.of_lines {I E : State → Prop} (ht : NestKept I E)
    (hqueue : ∀ s t : State, t = { s with q := t.q, exactCnt := t.exactCnt } → I s → I t)
    (hjob : ∀ s j r, I s → I (State.setJob s j r)) : QueueKept I E := by
  have hunlink (s : State) (j : JobId) : s.unlink j = { s with q := (s.unlink j).q, exactCnt := (s.unlink j).exactCnt } := by
    unfold State.unlink
    split
    next => rfl
    next => rfl
  have hline {f : State → State} (hf : ∀ s, I s → I (f s)) (hn : ∀ s, (f s).irqNest = s.irqNest) :
      Op.Keeps (fun s => I s ∧ s.irqNest ≠ 0#8) E (upd f) :=
    Op.keeps_upd fun s ⟨hs, hnest⟩ => ⟨hf s hs, by rw [hn s]; exact hnest⟩
  exact {
    time := ht
    unlink := fun s j => hqueue s _ (hunlink s j)
    ext := fun s j _ _ => hjob s j _
    locked := fun _ _ _ _ _ =>
      Op.spec_line (hline (fun s => hqueue s _ (hunlink s _)) fun s => State.unlink_irqNest s _) ht.lockedTau <|
      Op.spec_line (hline (fun s => hjob s _ _) fun _ => rfl) ht.lockedTau <|
      Op.spec_line (hline (fun s => hqueue s _ rfl) fun _ => rfl) ht.lockedTau <|
      hline (fun s => hqueue s _ rfl) fun _ => rfl }

/-! ## RIRQ, as the lines it is made of (R245) -/

theorem rirq_of_lines {I : State → Prop} (hwrite : ∀ s t, RegisterWrite s t → I s → I t)
    (hqueue : ∀ s t : State, t = { s with q := t.q, exactCnt := t.exactCnt } → I s → I t)
    (hjob : ∀ s j r, I s → I (State.setJob s j r)) (s : State) (h : I s) : I s.rirq := by
  rw [rirq_eq]
  refine hwrite (s.schedule s.tick RJOB s.tick CB_RPROC FL_IMMED) _ rfl ?_
  have hu : I (s.unlink RJOB) := by
    refine hqueue s _ ?_ h
    unfold State.unlink
    split
    next => rfl
    next => rfl
  exact hqueue ((s.unlink RJOB).setJob RJOB _) _ rfl (hjob _ _ _ hu)

/-! ## HOST's port is its own -/

theorem host_storedKept (l : List HostAct) : StoredKept fun s => s.host = l where
  write s t ht hs := by rw [ht]; exact hs
  fault s c hs := by simpa using hs
  rirq s hs := by simpa using hs

theorem host_queueKept (l : List HostAct) : QueueKept (fun s => s.host = l) fun s => s.host = l :=
  .of_lines ((host_storedKept l).time fun _ hs => hs) (fun s t ht hs => by rw [ht]; exact hs) fun _ _ _ hs => hs

/-- Settles O7: with the port closed no word is taken, and nothing that can happen then, an operation after a sleep call
included, has a line that writes the port. -/
theorem portNotReadWhileClosed : Obligations.PortNotReadWhileClosed := by
  intro s t hclosed hstep
  have hport : s.portOpen = false := by
    unfold State.portOpen
    rcases hclosed with h | h | h | ⟨h, h'⟩ <;> simp [*]
  obtain ⟨u, ⟨hu, hhost⟩, hm⟩ := step_moves hstep
  have hh : u.host = s.host := hhost.resolve_right (by simp [hport])
  have hopen : u.portOpen = false := by
    rw [hu]
    exact hport
  rw [← hh]
  have hkept := host_storedKept u.host
  cases hm with
  | stay => rfl
  | env e => exact hkept.clock.envEvent e u rfl
  | reset => rfl
  | fault c => exact hkept.fault u c rfl
  | write ho _ => exact absurd ho (by simp [hopen])
  | command _ ha => exact absurd (accepted_open ha) (by simp [hopen])
  | interrupted => exact Op.spec_run (hkept.loop fun _ hs => hs).interrupted rfl
  | reached =>
    have hrproc := (hkept.driver fun _ hs => hs).rproc (D := fun s => s.host = u.host)
      (fun s t ht hs => by rw [ht.1]; exact hs) (fun s e hs => hs) Config.params
    exact Op.spec_run ((hkept.loop fun _ hs => hs).reached (host_queueKept _) hrproc _) rfl

/-! ## The stores (R43, R64) -/

theorem stores_congr {s t : State} (hf : t.frame = s.frame) (hj : t.jobs = s.jobs) (h : StoreInv s) : StoreInv t := by
  unfold StoreInv
  rw [hf, hj]
  exact h

theorem stores_setJob {s : State} (h : StoreInv s) (j : JobId) (r : JobRec) : StoreInv (s.setJob j r) :=
  ⟨h.1, storePut_jobs_canonical h.2 j r⟩

theorem stores_storedKept : StoredKept StoreInv where
  write s t ht := stores_congr (by rw [ht]) (by rw [ht])
  fault s c := stores_congr (by simp) (by simp)
  rirq := rirq_of_lines (fun s t ht => stores_congr (by rw [ht]) (by rw [ht]))
    (fun s t ht => stores_congr (by rw [ht]) (by rw [ht])) fun _ j r h => stores_setJob h j r

theorem stores_queueKept : QueueKept StoreInv StoreInv :=
  .of_lines (stores_storedKept.time fun _ h => h) (fun s t ht => stores_congr (by rw [ht]) (by rw [ht]))
    fun _ j r h => stores_setJob h j r

theorem stores_result {s t : State} (ht : ResultWrite s t) (h : StoreInv s) : StoreInv t := by
  obtain ⟨ht, d, hd⟩ := ht
  refine ⟨?_, by rw [ht]; exact h.2⟩
  rw [hd]
  exact memory_writeFrom_wf d 0 h.1

theorem stores_rproc (p : Params) : Op.Keeps StoreInv StoreInv (rprocOp p) :=
  (stores_storedKept.driver fun _ h => h).rproc (fun _ _ => stores_result) (fun _ _ => stores_congr rfl rfl) p

/-- What HOST's write can do (R40, R41, R43). -/
theorem hostWrite_cases {w : HostWrite} {s t : State} (h : hostWrite w s = .next t) :
    t = { s with rcfg := Rcfg.write w s.rcfg } ∨ ∃ a v, t = { s with frame := Memory.write s.frame a v } := by
  cases w
  case frame a v =>
    unfold hostWrite at h
    dsimp only at h
    split at h
    next => exact .inr ⟨a, v, (Host.Outcome.next.inj h).symm⟩
    next => exact nomatch h
  all_goals exact .inl (Host.Outcome.next.inj h).symm

theorem stores_reset : StoreInv State.reset := by
  simp [StoreInv, Memory.wf, storeCanonical, State.reset]

/-- Settles O56: FRAME is written by HOST below MAX_LEN and by RPROC from address 0 through the same write, the job records
by one write that keeps the canonical form; no other line touches either store. -/
theorem stepKeepsStores : Obligations.StepKeepsStores := by
  intro s t h hstep
  obtain ⟨u, ⟨hu, -⟩, hm⟩ := step_moves hstep
  have hs : StoreInv u := stores_congr (by rw [hu]) (by rw [hu]) h
  have hkept := stores_storedKept
  have hloop := hkept.loop fun _ h => h
  cases hm with
  | stay => exact hs
  | env e => exact hkept.clock.envEvent e u hs
  | reset x => exact stores_congr rfl rfl stores_reset
  | fault c => exact hkept.fault u c hs
  | write _ hw =>
    rcases hostWrite_cases hw with rfl | ⟨a, v, rfl⟩
    · exact hs
    · exact ⟨memory_write_wf a v hs.1, hs.2⟩
  | command hm _ =>
    exact Op.spec_run (commandLines_kept stores_queueKept hloop (hkept.driver fun _ h => h) (fun _ h => h)
      (fun _ => stores_congr rfl rfl) (fun _ _ _ => stores_congr rfl rfl) hm) hs
  | interrupted => exact Op.spec_run hloop.interrupted hs
  | reached => exact Op.spec_run (hloop.reached stores_queueKept (stores_rproc _) _) hs

/-! ## The queue and its counter (R28 to R30) -/

/-- While interrupts are suppressed the other agents move the clock and the latch alone: t is u but for these. -/
def Latched (u t : State) : Prop := ∃ x p m, t = { u with xtime := x, irqPend := p, moments := m }

theorem Latched.refl (u : State) : Latched u u := ⟨_, _, _, rfl⟩

theorem latched_envEvents {u : State} (hn : u.irqNest ≠ 0#8) (es : List EnvEvent) {s : State}
    (h : Latched u s ∨ s.fault = true) : Latched u (s.envEvents es) ∨ (s.envEvents es).fault = true := by
  unfold State.envEvents
  induction es generalizing s with
  | nil => exact h
  | cons e es ih =>
    refine ih ?_
    rcases h with ⟨x, p, m, rfl⟩ | hf
    · cases e with
      | clk n => exact .inl ⟨_, _, _, rfl⟩
      | edge =>
        refine .inl ⟨x, true, m, ?_⟩
        exact serveIrq_of_not fun hc => hn hc.2.1
      | wdg =>
        show Latched u (if u.wdArmed then _ else _) ∨ State.fault (if u.wdArmed then _ else _) = true
        split
        next => exact .inr (State.hardFault_fault _ _)
        next => exact .inl ⟨_, _, _, rfl⟩
    · right
      cases e with
      | clk n => exact hf
      | edge =>
        show (State.serveIrq _).fault = true
        rw [serveIrq_of_not (by simp [hf])]
        exact hf
      | wdg =>
        show (if s.wdArmed then s.hardFault .watchdog else s).fault = true
        split <;> simp [hf]

theorem latched_tau {u : State} (hn : u.irqNest ≠ 0#8) : Op.Keeps (Latched u) (fun t => t.fault = true) tau := by
  rintro s ⟨x, p, m, hs⟩
  cases hm : s.moments with
  | nil =>
    rw [tau_quiet hm]
    exact ⟨x, p, m, hs⟩
  | cons es rest =>
    have hrest : Latched u { s with moments := rest } := ⟨x, p, rest, by rw [hs]⟩
    have ht := latched_envEvents hn es (.inl hrest)
    rw [tau_cons hm]
    by_cases hf : (State.envEvents es { s with moments := rest }).fault = true
    · rw [if_pos hf]
      exact hf
    · rw [if_neg hf]
      exact ht.resolve_right hf

/-- Lines 3 to 9 of SCHED under suppression do what they do undisturbed, or WDG ends them (R136, R181). -/
theorem latched_scheduleOp {u : State} (hn : u.irqNest ≠ 0#8) (now : Tick) (j : JobId) (dl : Tick) (cb : CbId)
    (fl : FlagSet) :
    Op.Spec (Latched u) (scheduleOp now j dl cb fl) (fun _ => Latched (u.schedule now j dl cb fl))
      (fun t => t.fault = true) := by
  have hline {f : State → State} {v : State} (hf : ∀ s, Latched v s → Latched (f v) (f s)) :
      Op.Spec (Latched v) (upd f) (fun _ => Latched (f v)) (fun t => t.fault = true) := Op.spec_upd hf
  refine Op.spec_line (hline ?unlink) (latched_tau (by simpa using hn)) <|
    Op.spec_line (hline ?writeJob) (latched_tau (by simpa using hn)) <|
    Op.spec_line (hline ?enqueue) (latched_tau (by simpa using hn)) <| hline ?count
  case unlink =>
    rintro s ⟨x, p, m, rfl⟩
    refine ⟨x, p, m, ?_⟩
    unfold State.unlink State.queued State.job
    dsimp only
    split <;> rfl
  all_goals
    rintro s ⟨x, p, m, rfl⟩
    exact ⟨x, p, m, rfl⟩

/-- EXACT_CNT counts the exact entries of a queue without duplicates, over stores in canonical form. -/
def Scheduled (s : State) : Prop := QueueCounted s ∧ StoreInv s

theorem scheduled_congr {s t : State} (hq : t.q = s.q) (hc : t.exactCnt = s.exactCnt) (hj : t.jobs = s.jobs)
    (hf : t.frame = s.frame) (h : Scheduled s) : Scheduled t := by
  refine ⟨?_, stores_congr hf hj h.2⟩
  unfold QueueCounted State.exactEntries State.job
  rw [hq, hc, hj]
  exact h.1

theorem scheduled_schedule {s : State} (h : Scheduled s) (now : Tick) (j : JobId) (dl : Tick) (cb : CbId) (fl : FlagSet) :
    Scheduled (s.schedule now j dl cb fl) :=
  ⟨schedule_counted h.1 h.2 now j dl cb fl, schedule_stores h.2 now j dl cb fl⟩

theorem scheduled_rirq {s : State} (h : Scheduled s) : Scheduled s.rirq := by
  rw [rirq_eq]
  exact scheduled_congr rfl rfl rfl rfl (scheduled_schedule h s.tick RJOB s.tick CB_RPROC FL_IMMED)

/-- The wide deadline and the final callback of a job are not what the counter counts (R26, R30). -/
theorem scheduled_writeExt {s : State} (h : Scheduled s) (j : JobId) (xdl : XTime) (xcb : CbId) :
    Scheduled (s.writeExt j xdl xcb) := by
  obtain ⟨⟨hn, hc⟩, hs⟩ := h
  have hfl (k : JobId) : ((s.writeExt j xdl xcb).job k).fl = (s.job k).fl := by
    by_cases hk : k = j
    · rw [hk, writeExt_self hs.2]
    · rw [writeExt_other s xdl xcb hk]
  refine ⟨⟨hn, ?_⟩, stores_setJob hs j _⟩
  unfold State.exactEntries
  simp only [hfl]
  exact hc

theorem scheduled_storedKept : StoredKept Scheduled where
  write s t ht := scheduled_congr (by rw [ht]) (by rw [ht]) (by rw [ht]) (by rw [ht])
  fault s c := scheduled_congr (by simp) (by simp) (by simp) (by simp)
  rirq s := scheduled_rirq

/-- What a fault leaves half done is not counted (R272). -/
def ScheduledUnlessFault (s : State) : Prop := s.fault = false → Scheduled s

theorem scheduled_time : NestKept Scheduled ScheduledUnlessFault := scheduled_storedKept.time fun _ h _ => h

theorem scheduled_queueKept : QueueKept Scheduled ScheduledUnlessFault where
  time := scheduled_time
  unlink s j h := ⟨unlink_counted h.1 j, stores_congr (by simp) (by simp) h.2⟩
  ext s j xdl xcb h := scheduled_writeExt h j xdl xcb
  locked now j dl cb fl := by
    rintro s ⟨hs, hn⟩
    have hrun := latched_scheduleOp hn now j dl cb fl s (Latched.refl s)
    split at hrun
    next =>
      obtain ⟨x, p, m, rfl⟩ := hrun
      refine ⟨?_, by simpa using hn⟩
      exact scheduled_congr rfl rfl rfl rfl (scheduled_schedule hs now j dl cb fl)
    next => exact fun hf => absurd hrun (by simp [hf])

theorem scheduled_result {s t : State} (ht : ResultWrite s t) (h : Scheduled s) : Scheduled t := by
  have hst := stores_result ht h.2
  obtain ⟨ht, -⟩ := ht
  refine ⟨?_, hst⟩
  rw [ht]
  exact h.1

theorem scheduledUnlessFault_storedKept : StoredKept ScheduledUnlessFault where
  write s t ht h hf := scheduled_storedKept.write s t ht (h (by rw [← hf, ht]))
  fault s c _ hf := absurd hf (by simp)
  rirq s h hf := scheduled_rirq (h (by simpa using hf))

/-- Settles O55: unlink, the insertion and RIRQ count what they move; SCHED's lines are taken together, since under
suppression nothing but the clock and the latch can come between them. -/
theorem stepKeepsScheduler : Obligations.StepKeepsScheduler := by
  intro s t h hst hstep
  obtain ⟨u, ⟨hu, -⟩, hm⟩ := step_moves hstep
  have hs : ScheduledUnlessFault u := by
    intro hf
    have hfs : s.fault = false := by rw [← hf, hu]
    exact scheduled_congr (by rw [hu]) (by rw [hu]) (by rw [hu]) (by rw [hu]) ⟨h hfs, hst⟩
  have hloop := scheduled_storedKept.loop (E := ScheduledUnlessFault) fun _ h _ => h
  have hdriver := scheduled_storedKept.driver (E := ScheduledUnlessFault) fun _ h _ => h
  have hend {m : Op Unit} (hm : Op.Keeps Scheduled ScheduledUnlessFault m) (hf : u.fault = false) :
      ScheduledUnlessFault (runOp m u) :=
    Op.spec_run (T := ScheduledUnlessFault)
      (Op.spec_weaken hm (fun _ h => h) (fun _ _ h _ => h) fun _ h => h) (hs hf)
  have ht : ScheduledUnlessFault t := by
    cases hm with
    | stay => exact hs
    | env e => exact scheduledUnlessFault_storedKept.clock.envEvent e u hs
    | reset x => exact fun _ => scheduled_congr rfl rfl rfl rfl ⟨⟨List.nodup_nil, rfl⟩, stores_reset⟩
    | fault c => exact scheduledUnlessFault_storedKept.fault u c hs
    | write _ hw =>
      rcases hostWrite_cases hw with rfl | ⟨a, v, rfl⟩
      · exact hs
      · exact fun hf => ⟨(hs hf).1, memory_write_wf a v (hs hf).2.1, (hs hf).2.2⟩
    | command hm ha =>
      refine hend (commandLines_kept scheduled_queueKept hloop hdriver (fun _ h => h) ?_ (fun _ _ _ h => h) hm)
        (accepted_free ha).1
      exact fun _ => scheduled_congr rfl rfl rfl rfl
    | interrupted hfree _ => exact hend hloop.interrupted hfree.1
    | reached hfree _ _ =>
      refine hend (hloop.reached scheduled_queueKept ?_ _) hfree.1
      exact hdriver.rproc (fun _ _ => scheduled_result) (fun _ _ => scheduled_congr rfl rfl rfl rfl) _
  exact fun hf => (ht hf).1

end Sys2Proof.Machine
end

section
/-!
PROOF. The invariants of the fatal entry and of chip-select (10_state.md R44, R45; 43_bus.md R194; 60_exceptions.md R273) and of
the sleep flag (44_radio.md R215): both hold between operations, and inside one they are moved by the frame.
-/

namespace Sys2Proof.Machine

/-! ## FAULT and FAULT_CODE (R44, R266) -/

/-- FAULT_CODE is zero until a fault, and then the code of a cause. -/
def CodeAgrees (s : State) : Prop :=
  (s.fault = false → s.faultCode = 0#8) ∧ (s.fault = true → ∃ c : FaultCode, s.faultCode = c.code)

theorem codeAgrees_congr {s t : State} (hf : t.fault = s.fault) (hc : t.faultCode = s.faultCode) (h : CodeAgrees s) :
    CodeAgrees t := by
  unfold CodeAgrees
  rw [hf, hc]
  exact h

theorem codeAgrees_hardFault {s : State} (c : FaultCode) (h : CodeAgrees s) : CodeAgrees (s.hardFault c) := by
  cases hf : s.fault with
  | true =>
    rw [State.hardFault_of_fault c hf]
    exact h
  | false =>
    rw [hardFault_eq s c hf]
    exact ⟨nofun, fun _ => ⟨c, rfl⟩⟩

theorem codeAgrees_storedKept : StoredKept CodeAgrees where
  write s t ht := codeAgrees_congr (by rw [ht]) (by rw [ht])
  fault s c := codeAgrees_hardFault c
  rirq s := codeAgrees_congr (by simp) (by simp)

/-! ## Chip-select (R190, R194) -/

/-- Outside a frame. -/
def FrameOver (s : State) : Prop := CodeAgrees s ∧ s.cs = .deasserted

/-- Where an operation stops, a fault or a hang says why. -/
def Stopped (s : State) : Prop := CodeAgrees s ∧ (s.fault = true ∨ s.hung = true)

theorem faultInv_iff (s : State) : FaultInv s ↔ CodeAgrees s ∧ (s.cs = .asserted → s.fault = true ∨ s.hung = true) := by
  unfold FaultInv CodeAgrees
  tauto

theorem faultInv_of_frameOver {s : State} (h : FrameOver s) : FaultInv s :=
  (faultInv_iff s).mpr ⟨h.1, fun hc => absurd (h.2.symm.trans hc) (by decide)⟩

theorem faultInv_of_stopped {s : State} (h : Stopped s) : FaultInv s := (faultInv_iff s).mpr ⟨h.1, fun _ => h.2⟩

theorem frameOver_of_faultInv {s : State} (h : FaultInv s) (hfree : s.seqFree) : FrameOver s := by
  obtain ⟨hcode, hcs⟩ := (faultInv_iff s).mp h
  refine ⟨hcode, ?_⟩
  cases hc : s.cs with
  | deasserted => rfl
  | asserted => rcases hcs hc with hf | hf <;> simp [hfree.1, hfree.2] at hf

theorem frameOver_clockKept : ClockKept FrameOver :=
  .of_rirq (fun s t ht h => ⟨codeAgrees_congr (by rw [ht]) (by rw [ht]) h.1, by rw [ht]; exact h.2⟩)
    (fun s c h => ⟨codeAgrees_hardFault c h.1, by simpa using h.2⟩)
    fun s h => ⟨codeAgrees_congr (by simp) (by simp) h.1, by simpa using h.2⟩

theorem frameOver_time : NestKept FrameOver Stopped := frameOver_clockKept.nestKept fun _ h hf => ⟨h.1, .inl hf⟩

/-- Inside a frame chip-select is asserted; a stop there is a fault at an interaction point, or the hang (R273, U9). -/
theorem frameOver_frame : FrameKept FrameOver CodeAgrees FrameOver Stopped where
  tau := codeAgrees_storedKept.clock.tau fun _ h hf => ⟨h, .inl hf⟩
  start s h := codeAgrees_congr rfl rfl h.1
  write s t ht := codeAgrees_congr (by rw [ht]) (by rw [ht])
  hang s h := ⟨codeAgrees_congr rfl rfl h, .inr rfl⟩
  done s t ht hcs h := ⟨codeAgrees_congr (by rw [ht]) (by rw [ht]) h, hcs⟩

theorem frameOver_driver : DriverKept FrameOver FrameOver Stopped :=
  DriverLines.kept {
    before := frameOver_time.toTimeKept
    pins := fun s t ht h => ⟨codeAgrees_congr (by rw [ht]) (by rw [ht]) h.1, by rw [ht]; exact h.2⟩
    first := frameOver_frame.frame
    wake := fun _ h => h
    time := frameOver_time.toTimeKept
    wait := frameOver_clockKept.wait fun _ h hf => ⟨h.1, .inl hf⟩
    frame := frameOver_frame.frame
    write := fun s t ht h => ⟨codeAgrees_congr (by rw [ht]) (by rw [ht]) h.1, by rw [ht]; exact h.2⟩ } frameOver_time

theorem frameOver_queueKept : QueueKept FrameOver Stopped :=
  .of_lines frameOver_time
    (fun s t ht h => ⟨codeAgrees_congr (by rw [ht]) (by rw [ht]) h.1, by rw [ht]; exact h.2⟩) fun _ _ _ h => h

theorem frameOver_loop : LoopKept FrameOver Stopped where
  time := frameOver_time
  write s t ht h := ⟨codeAgrees_congr (by rw [ht]) (by rw [ht]) h.1, by rw [ht]; exact h.2⟩

theorem frameOver_rproc (p : Params) : Op.Keeps FrameOver Stopped (rprocOp p) :=
  frameOver_driver.rproc
    (fun s t ht h => ⟨codeAgrees_congr (by rw [ht.1]) (by rw [ht.1]) h.1, by rw [ht.1]; exact h.2⟩) (fun _ _ h => h) p

theorem faultInv_congr {s t : State} (hf : t.fault = s.fault) (hc : t.faultCode = s.faultCode) (hcs : t.cs = s.cs)
    (hh : t.hung = s.hung) (h : FaultInv s) : FaultInv t := by
  unfold FaultInv
  rw [hf, hc, hcs, hh]
  exact h

theorem faultInv_hardFault {s : State} (c : FaultCode) (h : FaultInv s) : FaultInv (s.hardFault c) :=
  faultInv_of_stopped ⟨codeAgrees_hardFault c ((faultInv_iff s).mp h).1, .inl (State.hardFault_fault s c)⟩

/-- An edge and the clock leave FAULT, chip-select and the hang alone; the watchdog's fault is the fatal entry. -/
theorem faultInv_envEvent {s : State} (e : EnvEvent) (h : FaultInv s) : FaultInv (s.envEvent e) := by
  refine (ClockKept.of_rirq ?_ ?_ ?_).envEvent e s h
  · exact fun s t ht => faultInv_congr (by rw [ht]) (by rw [ht]) (by rw [ht]) (by rw [ht])
  · exact fun s c => faultInv_hardFault c
  · exact fun s => faultInv_congr (by simp) (by simp) (by simp) (by simp)

/-- Settles O58: the fatal entry is the one writer of FAULT and FAULT_CODE, and every frame that ends releases chip-select. -/
theorem stepKeepsFaultCode : Obligations.StepKeepsFaultCode := by
  intro s t h hstep
  obtain ⟨u, ⟨hu, -⟩, hm⟩ := step_moves hstep
  have hs : FaultInv u := faultInv_congr (by rw [hu]) (by rw [hu]) (by rw [hu]) (by rw [hu]) h
  have hend {m : Op Unit} (hm : Op.Keeps FrameOver Stopped m) (hfree : u.seqFree) : FaultInv (runOp m u) :=
    Op.spec_run (T := FaultInv) (Op.spec_weaken hm (fun _ h => h) (fun _ _ h => faultInv_of_frameOver h)
      fun _ h => faultInv_of_stopped h) (frameOver_of_faultInv hs hfree)
  cases hm with
  | stay => exact hs
  | env e => exact faultInv_envEvent e hs
  | reset x => exact ⟨fun _ => rfl, nofun, nofun⟩
  | fault c => exact faultInv_hardFault c hs
  | write _ hw => rcases hostWrite_cases hw with rfl | ⟨a, v, rfl⟩ <;> exact hs
  | command hm ha =>
    exact hend (commandLines_kept frameOver_queueKept frameOver_loop frameOver_driver (fun _ h => h) (fun _ h => h)
      (fun _ _ _ h => h) hm) (accepted_free ha)
  | interrupted hfree _ => exact hend frameOver_loop.interrupted hfree
  | reached hfree _ _ => exact hend (frameOver_loop.reached frameOver_queueKept (frameOver_rproc _) _) hfree

/-! ## The sleep flag (R215) -/

/-- A frame has cleared RSLEEP (R191), and nothing has set it since. -/
def Awake (s : State) : Prop := s.rsleep = false

theorem radioInv_of_awake {s : State} (h : Awake s) : RadioInv s := fun hs => absurd (h.symm.trans hs) (by decide)

theorem radioInv_congr {s t : State} (hr : t.rsleep = s.rsleep) (ho : t.rop = s.rop) (hm : t.chipMode = s.chipMode)
    (h : RadioInv s) : RadioInv t := by
  unfold RadioInv
  rw [hr, ho, hm]
  exact h

theorem radioInv_clockKept : ClockKept RadioInv :=
  .of_rirq (fun s t ht => radioInv_congr (by rw [ht]) (by rw [ht]) (by rw [ht]))
    (fun s c => radioInv_congr (by simp) (by simp) (by simp)) fun s => radioInv_congr (by simp) (by simp) (by simp)

theorem radioInv_time : NestKept RadioInv RadioInv := radioInv_clockKept.nestKept fun _ h _ => h

theorem awake_clockKept : ClockKept Awake :=
  .of_rirq (fun s t ht h => by rw [ht]; exact h) (fun s c h => by simpa [Awake] using h)
    fun s h => by simpa [Awake] using h

theorem awake_time : NestKept Awake RadioInv := awake_clockKept.nestKept fun _ h _ => radioInv_of_awake h

/-- The first line of every frame clears the flag, whatever it was. -/
theorem awake_frame (P : State → Prop) : FrameKept P Awake Awake RadioInv where
  tau := awake_time.tau
  start s _ := rfl
  write s t ht h := by rw [ht]; exact h
  hang s h := radioInv_of_awake h
  done s t ht _ h := by rw [ht]; exact h

theorem awake_driver : DriverKept RadioInv Awake RadioInv :=
  DriverLines.kept {
    before := radioInv_time.toTimeKept
    pins := fun s t ht => radioInv_congr (by rw [ht]) (by rw [ht]) (by rw [ht])
    first := (awake_frame RadioInv).frame
    wake := fun _ _ => rfl
    time := awake_time.toTimeKept
    wait := awake_clockKept.wait fun _ h _ => radioInv_of_awake h
    frame := (awake_frame Awake).frame
    write := fun s t ht h => by rw [ht]; exact h } awake_time

theorem radioInv_queueKept : QueueKept RadioInv RadioInv :=
  .of_lines radioInv_time (fun s t ht => radioInv_congr (by rw [ht]) (by rw [ht]) (by rw [ht]))
    fun _ _ _ => radioInv_congr rfl rfl rfl

theorem radioInv_loop : LoopKept RadioInv RadioInv where
  time := radioInv_time
  write s t ht := radioInv_congr (by rw [ht]) (by rw [ht]) (by rw [ht])

theorem radioInv_rproc (p : Params) : Op.Keeps RadioInv RadioInv (rprocOp p) :=
  awake_driver.rproc (fun s t ht h => by rw [ht.1]; exact h) (fun _ _ h => radioInv_of_awake h) p

/-- Settles O57: RSLEEP sets the flag together with the two registers; every other write of ROP or CHIPMODE comes after a
frame of its operation, which has cleared it. -/
theorem stepKeepsSleepFlag : Obligations.StepKeepsSleepFlag := by
  intro s t h hstep
  obtain ⟨u, ⟨hu, -⟩, hm⟩ := step_moves hstep
  have hs : RadioInv u := radioInv_congr (by rw [hu]) (by rw [hu]) (by rw [hu]) h
  cases hm with
  | stay => exact hs
  | env e => exact radioInv_clockKept.envEvent e u hs
  | reset x => exact nofun
  | fault c => exact radioInv_clockKept.fault u c hs
  | write _ hw => rcases hostWrite_cases hw with rfl | ⟨a, v, rfl⟩ <;> exact hs
  | command hm _ =>
    exact Op.spec_run (commandLines_kept radioInv_queueKept radioInv_loop awake_driver (fun _ => radioInv_of_awake)
      (fun _ _ _ => ⟨rfl, rfl⟩) (fun _ _ _ h => h) hm) hs
  | interrupted => exact Op.spec_run radioInv_loop.interrupted hs
  | reached => exact Op.spec_run (radioInv_loop.reached radioInv_queueKept (radioInv_rproc _) _) hs

/-! ## The shared record (R40 to R42, R61) -/

/-- The one frame of a row of R97 or R100: opcode, bytes out, whether a status comes back, and how many bytes in. -/
def rowFrame (p : Params) (r : Rcfg) : Instr → Option (Byte × List Byte × Bool × Nat)
  | .bcmd op v => some (op, v, false, 0)
  | .bread op n => some (op, [], true, n)
  | .bwreg a v => some (p.opc .wreg, addrBytes a ++ v, false, 0)
  | .brreg a n => some (p.opc .rreg, addrBytes a, true, n)
  | .bwbuf o v => some (p.opc .wbuf, o :: v, false, 0)
  | .brbuf o n => some (p.opc .rbuf, [o], true, n)
  | .ccSleep => some (p.opc .sleep, [p.coldFlag], false, 0)
  | .ccStandby => some (p.opc .standby, [p.stdbyCfg], false, 0)
  | .ccFs => some (p.opc .fs, [], false, 0)
  | .ccTx => some (p.opc .tx, timeoutBytes p p.txTimeout, false, 0)
  | .ccTxcw => some (p.opc .txcw, [], false, 0)
  | .ccRx t => some (p.opc .rx, timeoutBytes p t, false, 0)
  | .ccRegmode => some (p.opc .regmode, [p.regmode], false, 0)
  | .ccPkttype => some (p.opc .pkttype, [p.kindByte r.kind], false, 0)
  | .ccFreq => some (p.opc .freq, freqBytes p r.freq, false, 0)
  | .ccModparams => some (p.opc .modparams, modBytes p r, false, 0)
  | .ccPktparams dir => some (p.opc .pktparams, pktBytes p r dir, false, 0)
  | .ccClrirq => some (p.opc .clrirq, irqBytes IRQ_ALL, false, 0)
  | .ccIrqparams m => some (p.opc .irqparams, irqRouteBytes p m, false, 0)
  | .ccTxparams x => some (p.opc .txparams, powBytes p x, false, 0)
  | .ccGetirq => some (p.opc .getirq, [], true, 2)
  | .ccRxbufstatus => some (p.opc .rxbufstatus, [], true, 2)
  | .ccPktstatus => some (p.opc .pktstatus, [], true, p.nPktStatus)
  | .wreg a v => some (p.opc .wreg, addrBytes a ++ v, false, 0)
  | .rreg a n => some (p.opc .rreg, addrBytes a, true, n)
  | .wbuf o v => some (p.opc .wbuf, o :: v, false, 0)
  | .rbuf o n => some (p.opc .rbuf, [o], true, n)
  | _ => none

/-- Which rows are one frame: all but the commands and the three internal operations (R88). -/
theorem rowFrame_isSome (p : Params) (r : Rcfg) {i : Instr} (hcmd : i.isCommand = false) (hrirq : i ≠ .rirq)
    (hrproc : i ≠ .rproc) (hxstep : ∀ j, i ≠ .xstep j) : ∃ op out st nin, rowFrame p r i = some (op, out, st, nin) := by
  cases i
  case rirq => exact absurd rfl hrirq
  case rproc => exact absurd rfl hrproc
  case xstep j => exact absurd rfl (hxstep j)
  case gettick | getxtime | sched | cancel | schedx | runstep | runloop | cbret | irqdis | irqen | rinit | rtx | rrx
      | rsleep | rrand => exact nomatch hcmd
  all_goals exact ⟨_, _, _, _, rfl⟩

theorem internalOp_bcmdOp_eq (op : Byte) (out : List Byte) (s : State) :
    internalOp (bcmdOp op out) s = internalOp (busFrame op out false 0) s := by
  have hrun : runOp (bcmdOp op out) s = runOp (busFrame op out false 0) s := by
    unfold bcmdOp runOp
    rw [bind_run]
    cases busFrame op out false 0 s <;> rfl
  rw [internalOp, internalOp, hrun]

theorem internalOp_rd {α β : Type} (f : State → β) (m : β → Op α) (s : State) :
    internalOp (rd f >>= m) s = internalOp (m (f s)) s := rfl

/-- The six shapes and the chip commands each run their one frame; its payload may be read from RCFG. -/
theorem exec_rowFrame {i : Instr} {s : State} {op : Byte} {out : List Byte} {st : Bool} {nin : Nat}
    (h : rowFrame Config.params s.rcfg i = some (op, out, st, nin)) :
    exec i s = internalOp (busFrame op out st nin) s := by
  cases i
  case bread | brreg | brbuf | ccGetirq | ccRxbufstatus | ccPktstatus | rreg | rbuf =>
    cases h
    rfl
  case ccPkttype | ccFreq | ccModparams | ccPktparams =>
    cases h
    exact (internalOp_rd State.rcfg _ s).trans (internalOp_bcmdOp_eq ..)
  case bcmd | bwreg | bwbuf | ccSleep | ccStandby | ccFs | ccTx | ccTxcw | ccRx | ccRegmode | ccClrirq | ccIrqparams
      | ccTxparams | wreg | wbuf =>
    cases h
    exact internalOp_bcmdOp_eq _ _ s
  all_goals exact nomatch h

/-- An assertion about the shared record alone is kept by every line but those that write it. -/
theorem record_storedKept (A : Rcfg → List Host.Cell → Prop) : StoredKept fun s => A s.rcfg s.frame where
  write s t ht h := by rw [ht]; exact h
  fault s c h := by simpa using h
  rirq s h := by simpa using h

theorem record_queueKept (A : Rcfg → List Host.Cell → Prop) :
    QueueKept (fun s => A s.rcfg s.frame) fun s => A s.rcfg s.frame :=
  .of_lines ((record_storedKept A).time fun _ h => h) (fun s t ht h => by rw [ht]; exact h) fun _ _ _ h => h

/-- What an instruction leaves of the shared record: RRAND writes RAND, RPROC results, and no other row a field. -/
theorem exec_record {A : Rcfg → List Host.Cell → Prop} {i : Instr} {s t : State}
    (hrand : i = .rrand → ∀ r f x, A r f → A { r with rand := x } f)
    (hresult : i = .rproc → ∀ s t : State, ResultWrite s t → A s.rcfg s.frame → A t.rcfg t.frame)
    (h : exec i s = .next t) (hs : A s.rcfg s.frame) : A t.rcfg t.frame := by
  have hkept := record_storedKept A
  have hq := record_queueKept A
  have hd := hkept.driver fun _ h => h
  have hend {α : Type} {m : Op α} (hm : Op.Keeps (fun s => A s.rcfg s.frame) (fun s => A s.rcfg s.frame) m)
      (hin : internalOp m s = .next t) : A t.rcfg t.frame := by
    rcases internalOp_cases hin with rfl | ⟨-, rfl⟩
    · exact hs
    · exact Op.spec_run (T := fun s => A s.rcfg s.frame) hm hs
  by_cases hcmd : i.isCommand = true
  case pos =>
    obtain ⟨m, hm⟩ := Option.isSome_iff_exists.mp ((isCommand_iff i).symm.trans hcmd)
    rw [exec_command hm] at h
    rcases command_cases h with ⟨-, rfl⟩ | ⟨-, rfl⟩ | ⟨-, rfl⟩
    · exact Op.spec_run (T := fun s => A s.rcfg s.frame) (commandLines_kept hq (hkept.loop fun _ h => h) hd
        (fun _ h => h) (fun _ h => h) (fun hi s x => hrand hi s.rcfg s.frame x) hm) hs
    · exact hkept.fault s _ hs
    · exact hs
  case neg =>
    by_cases hirq : i = .rirq
    · rw [hirq] at h
      obtain rfl := Host.Outcome.next.inj h
      unfold State.serveIrq
      split
      next => exact hkept.rirq s hs
      next => exact hs
    · by_cases hproc : i = .rproc
      · rw [hproc] at h
        exact hend (hd.rproc (hresult hproc) (fun _ _ h => h) _) h
      · by_cases hx : ∃ j, i = .xstep j
        · obtain ⟨j, rfl⟩ := hx
          exact hend (hq.xstep j) h
        · obtain ⟨op, out, st, nin, hr⟩ := rowFrame_isSome Config.params s.rcfg (by simpa using hcmd) hirq hproc
            fun j hj => hx ⟨j, hj⟩
          rw [exec_rowFrame hr] at h
          exact hend (hd.frame op out st nin) h

/-- Settles O54: the three kinds of write to the shared record, and the rows that have each. -/
theorem sharedRecordOwnership : Obligations.SharedRecordOwnership := by
  intro i s t h
  have hinput : t.rcfg = { s.rcfg with
      datalen := t.rcfg.datalen, txend := t.rcfg.txend, rxend := t.rcfg.rxend, rxstart := t.rcfg.rxstart
      rssi := t.rcfg.rssi, snr := t.rcfg.snr, timedout := t.rcfg.timedout, rand := t.rcfg.rand } := by
    refine exec_record (A := fun r _ => r = { s.rcfg with
      datalen := r.datalen, txend := r.txend, rxend := r.rxend, rxstart := r.rxstart, rssi := r.rssi, snr := r.snr
      timedout := r.timedout, rand := r.rand }) (fun _ r _ x hr => ?_) (fun _ a b hab ha => ?_) h rfl
    · rw [hr]
    · rw [hab.1, ha]
  have hother (hi : i ≠ .rproc) : t.frame = s.frame ∧ t.rcfg = { s.rcfg with rand := t.rcfg.rand } :=
    exec_record (A := fun r f => f = s.frame ∧ r = { s.rcfg with rand := r.rand })
      (fun _ r f x hr => ⟨hr.1, by rw [hr.2]⟩) (fun hc => absurd hc hi) h ⟨rfl, rfl⟩
  have hrand (hi : i ≠ .rrand) : t.rcfg.rand = s.rcfg.rand :=
    exec_record (A := fun r _ => r.rand = s.rcfg.rand) (fun hc => absurd hc hi)
      (fun _ a b hab ha => by rw [hab.1]; exact ha) h rfl
  refine ⟨?_, hother, hrand⟩
  rw [hinput]
  simp only [and_self]

end Sys2Proof.Machine
end

section
/-!
PROOF. The control state between operations (10_state.md R33; 42_runloop.md R175 g, R177; 60_exceptions.md R268, R283): what
the run loop does with RL_STATE, RL_LOOP and the watchdog, and that no interrupt is ever left waiting that could be taken.
-/

namespace Sys2Proof.Machine

/-! ## RIRQ is taken as soon as it can be (R283) -/

@[simp] theorem State.rirq_irqPend (s : State) : s.rirq.irqPend = false := by
  rw [rirq_eq]

theorem serveIrq_settled (s : State) : s.serveIrq.irqSettled := by
  intro hf ⟨hp, hn⟩
  unfold State.serveIrq at hf hp hn
  split at hp
  next => simp at hp
  next hc =>
    rw [if_neg hc] at hf hn
    exact hc (by simp [hp, hn, hf])

/-- What serving an interrupt leaves alone of the control state. -/
theorem serveIrq_control (s : State) :
    s.serveIrq.rlState = s.rlState ∧ s.serveIrq.rlLoop = s.rlLoop ∧ s.serveIrq.wdArmed = s.wdArmed
      ∧ s.serveIrq.fault = s.fault ∧ s.serveIrq.hung = s.hung := by
  unfold State.serveIrq
  split
  next => simp
  next => simp

/-! ## Inside an operation -/

/-- The registers of the run loop have these values, and no interrupt waits that could be taken. -/
def Running (rl : RlState) (loop armed : Bool) (s : State) : Prop :=
  s.rlState = rl ∧ s.rlLoop = loop ∧ s.wdArmed = armed ∧ s.irqSettled

theorem running_serveIrq {rl : RlState} {loop armed : Bool} {s : State} (hrl : s.rlState = rl) (hloop : s.rlLoop = loop)
    (hwd : s.wdArmed = armed) : Running rl loop armed s.serveIrq := by
  obtain ⟨h1, h2, h3, -, -⟩ := serveIrq_control s
  exact ⟨h1.trans hrl, h2.trans hloop, h3.trans hwd, serveIrq_settled s⟩

theorem running_clockKept (rl : RlState) (loop armed : Bool) : ClockKept (Running rl loop armed) where
  write s t ht h := by rw [ht]; exact h
  fault s c h := by
    obtain ⟨hrl, hloop, hwd, -⟩ := h
    exact ⟨by simpa using hrl, by simpa using hloop, by simpa using hwd, fun hf => absurd hf (by simp)⟩
  edge s h := running_serveIrq h.1 h.2.1 h.2.2.1
  raised s h hmax := ⟨h.1, h.2.1, h.2.2.1, fun _ hc => nest_succ_ne_zero hmax hc.2⟩
  lowered s h _ h1 := ⟨h.1, h.2.1, h.2.2.1, fun _ hc => h1 ((nest_pred_eq_zero _).mp hc.2)⟩
  released s h _ := running_serveIrq h.1 h.2.1 h.2.2.1

theorem controlInv_of_fault {s : State} (h : s.fault = true) : ControlInv s := fun hf => absurd (h.symm.trans hf) (by decide)

theorem running_time (rl : RlState) (loop armed : Bool) : NestKept (Running rl loop armed) ControlInv :=
  (running_clockKept rl loop armed).nestKept fun _ _ hf => controlInv_of_fault hf

theorem running_queueKept (rl : RlState) (loop armed : Bool) : QueueKept (Running rl loop armed) ControlInv :=
  .of_lines (running_time rl loop armed) (fun s t ht h => by rw [ht]; exact h) fun _ _ _ h => h

/-- A frame that hangs leaves the control state of its operation, which is not a sleep (R192, R268). -/
theorem running_driver {rl : RlState} (hrl : rl ≠ .sleeping) (loop armed : Bool) :
    DriverKept (Running rl loop armed) (Running rl loop armed) ControlInv := by
  have htime := running_time rl loop armed
  have hframe : FrameKept (Running rl loop armed) (Running rl loop armed) (Running rl loop armed) ControlInv := {
    tau := htime.tau
    start := fun _ h => h
    write := fun s t ht h => by rw [ht]; exact h
    hang := fun s h hf => ⟨h.2.2.2 hf, fun hs => absurd (h.1.symm.trans hs) hrl, nofun, nofun⟩
    done := fun s t ht _ h => by rw [ht]; exact h }
  exact DriverLines.kept {
    before := htime.toTimeKept
    pins := fun s t ht h => by rw [ht]; exact h
    first := hframe.frame
    wake := fun _ h => h
    time := htime.toTimeKept
    wait := (running_clockKept rl loop armed).wait fun _ _ hf => controlInv_of_fault hf
    frame := hframe.frame
    write := fun s t ht h => by rw [ht]; exact h } htime

/-- At the end of an operation that is not a sleep. -/
theorem controlInv_of_running {rl : RlState} {loop armed : Bool} (hrl : rl ≠ .sleeping)
    (hwd : armed = true ↔ rl = .dispatching) (hloop : rl = .stopped → loop = false) {s : State}
    (h : Running rl loop armed s) : ControlInv s := by
  obtain ⟨rfl, rfl, rfl, hset⟩ := h
  exact fun hf => ⟨hset hf, fun hs => absurd hs hrl, fun _ => hwd, fun _ => hloop⟩

/-! ## The run loop -/

theorem running_runstep (rl : RlState) (loop : Bool) :
    Op.Spec (Running rl loop false) runstepOp (fun _ => ControlInv) ControlInv :=
  Op.spec_line (running_time rl loop false).lock (running_time rl loop false).lockedTau <|
  Op.spec_line (Q := fun s => Running .sleeping loop false s ∧ s.irqNest ≠ 0#8)
    (Op.spec_upd fun _ ⟨⟨_, hloop, hwd, hset⟩, hn⟩ => ⟨⟨rfl, hloop, hwd, hset⟩, hn⟩)
    (running_time .sleeping loop false).lockedTau <|
  Op.spec_upd fun s ⟨⟨hrl, _, hwd, hset⟩, hn⟩ hf =>
    ⟨hset hf, fun _ => hn, fun _ => by simp [hrl, hwd], fun _ hs => absurd (hrl.symm.trans hs) (by decide)⟩

theorem running_runloop (rl : RlState) (loop : Bool) :
    Op.Spec (Running rl loop false) runloopOp (fun _ => ControlInv) ControlInv :=
  (running_time rl true false).line (Op.spec_upd fun _ ⟨hrl, _, hwd, hset⟩ => ⟨hrl, rfl, hwd, hset⟩)
    (running_runstep rl true)

theorem running_finish (rl : RlState) (loop armed : Bool) :
    Op.Spec (Running rl loop armed) finishOp (fun _ => ControlInv) ControlInv := by
  have hdisarm : Op.Spec (Running rl loop armed) disarm (fun _ => Running rl loop false) ControlInv := by
    refine Op.spec_upd fun s ⟨hrl, hloop, hwd, hset⟩ => ?_
    split
    next => exact ⟨hrl, hloop, rfl, hset⟩
    next hc => exact ⟨hrl, hloop, by simpa using hc, hset⟩
  have hanswer : Op.Spec (Running .stopped loop false) finishAnswer (fun _ => ControlInv) ControlInv := by
    refine Op.spec_bind (Q := fun b s => b = loop ∧ Running .stopped loop false s)
      (Op.spec_rd fun s h => ⟨h.2.1, h⟩) fun b => ?_
    cases b with
    | true => exact Op.spec_weaken (running_runstep .stopped loop) (fun _ h => h.2) (fun _ _ h => h) fun _ h => h
    | false =>
      refine Op.spec_upd fun s ⟨hloop, hrun⟩ => ?_
      exact controlInv_of_running (s := s.emit _) (by decide) (by decide) (fun _ => hloop.symm) hrun
  exact (running_time rl loop false).line hdisarm <|
    (running_time .stopped loop false).line
      (Op.spec_upd fun _ ⟨_, hloop, hwd, hset⟩ => ⟨rfl, hloop, hwd, hset⟩) hanswer

theorem running_stop (rl : RlState) (loop armed : Bool) :
    Op.Spec (Running rl loop armed) (upd fun s => { s with rlState := .stopped })
      (fun _ => Running .stopped loop armed) ControlInv :=
  Op.spec_upd fun _ ⟨_, hloop, hwd, hset⟩ => ⟨rfl, hloop, hwd, hset⟩

theorem running_interrupted (rl : RlState) (loop armed : Bool) :
    Op.Spec (Running rl loop armed) sleepInterrupted (fun _ => ControlInv) ControlInv :=
  (running_time .stopped loop armed).line (running_stop rl loop armed) <|
  (running_time .stopped loop armed).line (running_time .stopped loop armed).enable <|
  running_finish .stopped loop armed

/-- The callback runs under the armed watchdog: it finishes by itself, or hands over to HOST (R165 steps 5e to 5g). -/
theorem running_invoke (p : Params) (j : JobId) (cb : CbId) (loop : Bool) :
    Op.Spec (Running .stopped loop true) (invoke p j cb) (fun _ => ControlInv) ControlInv := by
  have hend {s : State} (h : Running .dispatching loop true s) : ControlInv s :=
    controlInv_of_running (rl := .dispatching) (armed := true) (by decide) (by decide) nofun h
  refine Op.spec_ite (fun _ => ?xstep) fun _ => Op.spec_ite (fun _ => ?rproc) fun _ => ?host
  case xstep =>
    exact (running_time .stopped loop true).line ((running_queueKept .stopped loop true).xstep j)
      (running_finish .stopped loop true)
  case rproc =>
    exact (running_driver (by decide) loop true).rproc (fun _ _ ht h => by rw [ht.1]; exact h)
      (fun s e ⟨_, hloop, hwd, hset⟩ => hend (s := { s.emit e with rlState := .dispatching }) ⟨rfl, hloop, hwd, hset⟩) p
  case host =>
    exact Op.spec_upd fun s ⟨_, hloop, hwd, hset⟩ =>
      hend (s := { s.emit _ with rlState := .dispatching }) ⟨rfl, hloop, hwd, hset⟩

theorem running_reached (p : Params) (rl : RlState) (loop armed : Bool) (j : JobId) :
    Op.Spec (Running rl loop armed) (sleepReached p j) (fun _ => ControlInv) ControlInv := by
  have htime := running_time .stopped loop armed
  have harmed := running_time .stopped loop true
  have hlate (t : Tick) : Op.Keeps (Running .stopped loop armed) ControlInv (lateCheck p j t) := by
    refine Op.keeps_upd fun s h => ?_
    dsimp only
    split
    next => exact h
    next => exact h
  exact htime.line (running_stop rl loop armed) <|
    htime.line (Op.keeps_upd fun s => (running_queueKept .stopped loop armed).unlink s j) <|
    htime.line (Op.spec_read fun _ => Op.spec_ite (fun _ => Op.keeps_pure ()) fun _ => htime.enable) <|
    Op.spec_read fun _ =>
    htime.line (hlate _) <|
    harmed.line (Op.spec_upd fun _ ⟨hrl, hloop, _, hset⟩ => ⟨hrl, hloop, rfl, hset⟩) <|
    Op.spec_read fun _ =>
    Op.spec_bind harmed.tau fun _ => running_invoke p j _ loop

/-! ## Every step -/

theorem controlInv_congr {s t : State} (hu : Taken s t) (h : ControlInv s) : ControlInv t := by
  obtain ⟨ht, -⟩ := hu
  rw [ht]
  exact h

theorem running_of_controlInv {s : State} (h : ControlInv s) (hf : s.fault = false) :
    Running s.rlState s.rlLoop s.wdArmed s :=
  ⟨rfl, rfl, rfl, fun _ => (h hf).1⟩

theorem controlInv_envEvent {s : State} (e : EnvEvent) (h : ControlInv s) : ControlInv (s.envEvent e) := by
  cases e with
  | clk n => exact h
  | edge =>
    intro hf
    obtain ⟨hrl, hloop, hwd, hfault, hhung⟩ := serveIrq_control { s with irqPend := true }
    obtain ⟨-, hnest, harmed, hrest⟩ := h (hfault.symm.trans hf)
    refine ⟨serveIrq_settled _ hf, ?_, ?_, ?_⟩
    · show (State.serveIrq _).rlState = _ → (State.serveIrq _).irqNest ≠ _
      rw [hrl, State.serveIrq_irqNest]
      exact hnest
    · show (State.serveIrq _).hung = _ → ((State.serveIrq _).wdArmed = _ ↔ (State.serveIrq _).rlState = _)
      rw [hrl, hwd, hhung]
      exact harmed
    · show (State.serveIrq _).hung = _ → (State.serveIrq _).rlState = _ → (State.serveIrq _).rlLoop = _
      rw [hrl, hloop, hhung]
      exact hrest
  | wdg =>
    show ControlInv (if s.wdArmed then s.hardFault .watchdog else s)
    split
    next => exact controlInv_of_fault (State.hardFault_fault s _)
    next => exact h

/-- A command that is accepted finds the control state at rest. -/
theorem running_of_accepted {s : State} {c : CmdClass} (h : ControlInv s) (ha : s.acceptance c = .accepted) :
    s.rlState ≠ .sleeping ∧ (s.wdArmed = true ↔ s.rlState = .dispatching) ∧ (s.rlState = .stopped → s.rlLoop = false)
      ∧ Running s.rlState s.rlLoop s.wdArmed s := by
  obtain ⟨hfault, hhung⟩ := accepted_free ha
  obtain ⟨-, -, harmed, hrest⟩ := h hfault
  exact ⟨(portOpen_free (accepted_open ha)).2.2, harmed hhung, hrest hhung, running_of_controlInv h hfault⟩

theorem controlInv_command {i : Instr} {m : Op Unit} {s : State} (h : ControlInv s) (hm : commandLines i = some m)
    (ha : s.acceptance (classOf i) = .accepted) : ControlInv (runOp m s) := by
  obtain ⟨hrl, hwd, hloop, hrun⟩ := running_of_accepted h ha
  by_cases hclass : classOf i = .plain
  case pos =>
    have hkept := commandLines_plain (running_time _ _ _) (running_queueKept _ _ _) (running_driver hrl s.rlLoop s.wdArmed)
      (fun _ h => h) (fun _ h => h) (fun _ _ _ h => h) hclass hm
    exact Op.spec_run (Op.spec_weaken hkept (fun _ h => h) (fun _ _ => controlInv_of_running hrl hwd hloop) fun _ h => h)
      hrun
  case neg =>
    have hrunner (hc : classOf i = .runner) : s.wdArmed = false := by
      rw [hc] at ha
      have hstop := (accepted_runner ha).1
      cases hw : s.wdArmed with
      | false => rfl
      | true => exact absurd ((hwd.mp hw).symm.trans hstop) (by decide)
    cases i
    case runstep =>
      obtain rfl := Option.some.inj hm
      exact Op.spec_run (running_runstep _ _) (hrunner rfl ▸ hrun)
    case runloop =>
      obtain rfl := Option.some.inj hm
      exact Op.spec_run (running_runloop _ _) (hrunner rfl ▸ hrun)
    case cbret =>
      obtain rfl := Option.some.inj hm
      exact Op.spec_run (running_finish _ _ _) hrun
    all_goals exact absurd rfl hclass

/-- Settles O59: plain commands leave the control state alone; RUNSTEP, the return of its sleep and CBRET move it from one
resting state to another; an edge is served where it can be. -/
theorem stepKeepsControl : Obligations.StepKeepsControl := by
  intro s t h hstep
  obtain ⟨u, hu, hm⟩ := step_moves hstep
  have hs : ControlInv u := controlInv_congr hu h
  cases hm with
  | stay => exact hs
  | env e => exact controlInv_envEvent e hs
  | reset x => exact fun _ => ⟨nofun, nofun, fun _ => ⟨nofun, nofun⟩, fun _ _ => rfl⟩
  | fault c => exact controlInv_of_fault (State.hardFault_fault u c)
  | write _ hw => rcases hostWrite_cases hw with rfl | ⟨a, v, rfl⟩ <;> exact hs
  | command hm ha => exact controlInv_command hs hm ha
  | interrupted hfree _ => exact Op.spec_run (running_interrupted _ _ _) (running_of_controlInv hs hfree.1)
  | reached hfree _ _ => exact Op.spec_run (running_reached _ _ _ _ _) (running_of_controlInv hs hfree.1)

/-- Settles O60: the queue, the stores and FAULT are empty at reset, and nothing runs. -/
theorem resetMeetsInvariants : Obligations.ResetMeetsInvariants :=
  ⟨fun _ => ⟨List.nodup_nil, rfl⟩, stores_reset, nofun, ⟨fun _ => rfl, nofun, nofun⟩,
    fun _ => ⟨nofun, nofun, fun _ => ⟨nofun, nofun⟩, fun _ _ => rfl⟩⟩

end Sys2Proof.Machine
end

section
/-!
PROOF. Acceptance and the step (60_exceptions.md R268 to R276, R282; 00_scope.md R8, R9): which commands run, what a turn of each
agent does, what is left after a fault, in a hang and after a reset, and HOST's writes (10_state.md R40, R41, R43).
-/

namespace Sys2Proof.Machine

/-! ## Acceptance (R268) -/

theorem portOpen_iff (s : State) :
    s.portOpen = true ↔ s.fault = false ∧ s.hung = false
      ∧ ((s.rlState = .stopped ∧ s.rlLoop = false) ∨ s.rlState = .dispatching) := by
  unfold State.portOpen
  cases s.rlState <;> simp [and_assoc]

theorem notTaken_iff (s : State) : NotTaken s ↔ s.portOpen = false := by
  rw [← Bool.not_eq_true, portOpen_iff]
  unfold NotTaken
  cases s.fault <;> cases s.hung <;> cases s.rlState <;> simp

theorem acceptance_closed {s : State} (h : s.portOpen = false) (c : CmdClass) : s.acceptance c = .notTaken := by
  simp [State.acceptance, h]

theorem acceptance_stopped {s : State} (ho : s.portOpen = true) (hr : s.rlState = .stopped) (c : CmdClass) :
    s.acceptance c = if c = .callbackReturn then .assertFails else .accepted := by
  cases c <;> simp [State.acceptance, ho, hr]

theorem acceptance_dispatching {s : State} (ho : s.portOpen = true) (hr : s.rlState = .dispatching) (c : CmdClass) :
    s.acceptance c = if c = .runner then .assertFails else .accepted := by
  cases c <;> simp [State.acceptance, ho, hr]

/-- The three answers of the table, in registers. -/
theorem acceptance_iff (c : CmdClass) (s : State) :
    (s.acceptance c = .accepted ↔ s.portOpen = true
        ∧ ((s.rlState = .stopped ∧ c ≠ .callbackReturn) ∨ (s.rlState = .dispatching ∧ c ≠ .runner)))
      ∧ (s.acceptance c = .assertFails ↔ s.portOpen = true
        ∧ ((s.rlState = .stopped ∧ c = .callbackReturn) ∨ (s.rlState = .dispatching ∧ c = .runner)))
      ∧ (s.acceptance c = .notTaken ↔ s.portOpen = false) := by
  cases ho : s.portOpen with
  | false => simp [acceptance_closed ho]
  | true =>
    obtain ⟨-, -, ⟨hr, -⟩ | hr⟩ := (portOpen_iff s).mp ho
    · rw [acceptance_stopped ho hr]
      cases c <;> simp [hr]
    · rw [acceptance_dispatching ho hr]
      cases c <;> simp [hr]

theorem command_assertFails {c : CmdClass} {s : State} (h : s.acceptance c = .assertFails) (m : Op Unit) :
    command c m s = .next (s.hardFault .assertion) := by
  simp only [command, h]

theorem command_notTaken {c : CmdClass} {s : State} (h : s.acceptance c = .notTaken) (m : Op Unit) :
    command c m s = .next s := by
  simp only [command, h]

/-- Settles O8: the table by whether the port is open and by RL_STATE, then each command's meaning as its own lines. -/
theorem acceptanceTable : Obligations.AcceptanceTable := by
  refine ⟨fun c s => ?_, isCommand_iff, fun i m hm s => ⟨fun ha => ?_, fun ha => ?_, fun hn => ?_⟩, fun s hf hh => ?_⟩
  · obtain ⟨hacc, hassert, hnot⟩ := acceptance_iff c s
    rw [hacc, hassert, hnot, notTaken_iff, portOpen_iff]
    refine ⟨?_, ?_, Iff.rfl⟩
    · cases hr : s.rlState <;> simp [and_assoc]
    · cases hr : s.rlState <;> simp [and_assoc]
  · rw [exec_command hm]
    simp only [command, ha]
  · rw [exec_command hm, command_assertFails ha]
  · rw [exec_command hm, command_notTaken ((acceptance_iff _ s).2.2.mpr ((notTaken_iff s).mp hn))]
  · have hassert (c : CmdClass) := (acceptance_iff c s).2.1
    refine ⟨fun hr hl => ?_, fun hr => ?_⟩
    · exact command_assertFails ((hassert _).mpr ⟨(portOpen_iff s).mpr ⟨hf, hh, .inl ⟨hr, hl⟩⟩, .inl ⟨hr, rfl⟩⟩) _
    · have ha := (hassert .runner).mpr ⟨(portOpen_iff s).mpr ⟨hf, hh, .inr hr⟩, .inr ⟨hr, rfl⟩⟩
      exact ⟨command_assertFails ha _, command_assertFails ha _⟩

/-! ## SEQ's turn -/

theorem seqStep_word {s : State} {w : CmdWord} {rest : List HostAct} {i : Instr} (hopen : s.portOpen = true)
    (hhost : s.host = .cmd w :: rest) (hd : decode w = .ok i) : seqStep s = exec i { s with host := rest } := by
  simp only [seqStep, readPort_open hopen, hhost, hd]

theorem seqStep_write {s : State} {w : HostWrite} {rest : List HostAct} (hopen : s.portOpen = true)
    (hhost : s.host = .write w :: rest) : seqStep s = hostWrite w { s with host := rest } := by
  simp only [seqStep, readPort_open hopen, hhost]

/-- After a fault and in a hang SEQ takes no step (R192, R271). -/
theorem readPort_stuck {s : State} (h : s.fault = true ∨ s.hung = true) : readPort s = .nothing := by
  unfold readPort
  rw [if_pos (by simpa using h)]

theorem seqStep_stuck {s : State} (h : s.fault = true ∨ s.hung = true) : seqStep s = .next s := by
  simp only [seqStep, readPort_stuck h]

/-- Settles O6: scripted or not, SEQ's turn at an open port decodes the word in front and runs it. -/
theorem stepRunsDecoded : Obligations.StepRunsDecoded := by
  intro s w rest i hturn hopen hhost hd
  rw [step_of_act hturn hopen hhost]
  exact seqStep_word hopen hhost hd

/-! ## The fatal entry (R270 to R272) -/

/-- Settles O9: the two branches of the fatal entry. -/
theorem hardFaultEntry : Obligations.HardFaultEntry := by
  refine fun s c => ⟨fun hf => ⟨if Config.debugOutput then [.debug c.code] else [], ?_, hardFault_eq s c hf⟩,
    State.hardFault_of_fault c⟩
  cases Config.debugOutput with
  | true => exact .inr rfl
  | false => exact .inl rfl

theorem serveIrq_of_fault {s : State} (h : s.fault = true) : s.serveIrq = s := serveIrq_of_not fun hc => by simp [h] at hc

theorem sleepReturns_stuck {s : State} (h : s.fault = true ∨ s.hung = true) (p : Params) (a : SleepAnswer) :
    s.sleepReturns p a = s := by
  unfold State.sleepReturns
  rw [if_pos]
  rcases h with h | h <;> simp [h]

theorem internalOp_stuck {α : Type} {s : State} (h : s.fault = true ∨ s.hung = true) (m : Op α) :
    internalOp m s = .next s := by
  unfold internalOp
  rw [if_pos (by simpa using h)]

theorem acceptance_stuck {s : State} (h : s.fault = true ∨ s.hung = true) (c : CmdClass) : s.acceptance c = .notTaken := by
  refine acceptance_closed ((notTaken_iff s).mp ?_) c
  rcases h with h | h
  · exact .inl h
  · exact .inr (.inl h)

/-- After a fault and in a hang no command runs. -/
theorem exec_command_stuck {i : Instr} {s : State} (hi : i.isCommand = true) (h : s.fault = true ∨ s.hung = true) :
    exec i s = .next s := by
  obtain ⟨m, hm⟩ := Option.isSome_iff_exists.mp ((isCommand_iff i).symm.trans hi)
  rw [exec_command hm, command_notTaken (acceptance_stuck h _)]

theorem exec_of_fault {s : State} (i : Instr) (h : s.fault = true) : exec i s = .next s := by
  by_cases hi : i.isCommand = true
  · exact exec_command_stuck hi (.inl h)
  · by_cases hirq : i = .rirq
    · rw [hirq]
      exact congrArg Host.Outcome.next (serveIrq_of_fault h)
    · by_cases hproc : i = .rproc
      · rw [hproc]
        exact internalOp_stuck (.inl h) _
      · by_cases hx : ∃ j, i = .xstep j
        · obtain ⟨j, rfl⟩ := hx
          exact internalOp_stuck (.inl h) _
        · obtain ⟨op, out, st, nin, hr⟩ := rowFrame_isSome Config.params s.rcfg (by simpa using hi) hirq hproc
            fun j hj => hx ⟨j, hj⟩
          rw [exec_rowFrame hr]
          exact internalOp_stuck (.inl h) _

/-- Where SEQ takes no step, what is left is the turn of another agent, or the watchdog's if nothing is scripted. -/
theorem step_stuck {s t : State} (h : s.fault = true ∨ s.hung = true) (hstep : step s = .next t) :
    (s.turns = [] ∧ s.wdArmed = true ∧ t = s.hardFault .watchdog) ∨ t = { s with turns := s.turns.tail }
      ∨ (∃ e ts, s.turns = .env e :: ts ∧ t = State.envEvent e { s with turns := ts })
      ∨ ∃ x ts, s.turns = .platformReset x :: ts := by
  cases hts : s.turns with
  | nil =>
    rw [step_unscripted hts] at hstep
    rcases overdue_cases s with ho | ⟨-, hwd, ho⟩
    · rw [ho, seqStep_stuck h] at hstep
      refine .inr (.inl ?_)
      rw [← Host.Outcome.next.inj hstep]
      rw [List.tail_nil, ← hts]
    · rw [ho, seqStep_stuck (.inl (State.hardFault_fault _ _))] at hstep
      exact .inl ⟨rfl, hwd, (Host.Outcome.next.inj hstep).symm⟩
  | cons x ts =>
    cases x with
    | seq =>
      rw [step_seq hts, seqStep_stuck (s := { s with turns := ts }) h] at hstep
      exact .inr (.inl (Host.Outcome.next.inj hstep).symm)
    | env e =>
      rw [step_turn hts nofun] at hstep
      exact .inr (.inr (.inl ⟨e, ts, rfl, (Host.Outcome.next.inj hstep).symm⟩))
    | sleepReturns a =>
      rw [step_turn hts nofun] at hstep
      have hstay := sleepReturns_stuck (s := { s with turns := ts }) h Config.params a
      exact .inr (.inl ((Host.Outcome.next.inj hstep).symm.trans hstay))
    | platformReset x => exact .inr (.inr (.inr ⟨x, ts, rfl⟩))

theorem envEvent_edge_of_not {s : State} (h : ¬(s.irqNest = 0#8 ∧ s.fault = false)) :
    s.envEvent .edge = { s with irqPend := true } :=
  serveIrq_of_not fun hc => h hc.2

theorem envEvent_wdg_of_fault {s : State} (h : s.fault = true) : s.envEvent .wdg = s := by
  show (if s.wdArmed then s.hardFault .watchdog else s) = s
  rw [State.hardFault_of_fault _ h, ite_self]

/-- After a fault the other agents count and latch (R271, R282). -/
theorem envEvent_of_fault {s : State} (h : s.fault = true) (e : EnvEvent) :
    s.envEvent e = { s with xtime := (s.envEvent e).xtime, irqPend := (s.envEvent e).irqPend } := by
  cases e with
  | clk n => rfl
  | edge => rw [envEvent_edge_of_not (by simp [h])]
  | wdg => rw [envEvent_wdg_of_fault h]

/-- Settles O10: no row runs after a fault, a second fault is none, and no interrupt is taken. -/
theorem faultHaltsEverything : Obligations.FaultHaltsEverything := by
  refine ⟨fun i s => exec_of_fault i, fun s t hf hstep hreset => ?_⟩
  rcases step_stuck (.inl hf) hstep with ⟨hts, -, rfl⟩ | rfl | ⟨e, ts, hts, rfl⟩ | ⟨x, ts, hts⟩
  · rw [State.hardFault_of_fault _ hf, hts, List.tail_nil, ← hts]
  · rfl
  · rw [hts, List.tail_cons]
    exact envEvent_of_fault (s := { s with turns := ts }) hf e
  · exact absurd hts (hreset x ts)

/-! ## Turns of the other agents -/

theorem step_platformReset {s : State} {x : BitVec (XT_W - 1)} {ts : List Turn} (h : s.turns = .platformReset x :: ts) :
    step s = .next (State.platformReset x { s with turns := ts }) :=
  step_turn h nofun

theorem step_env {s : State} {e : EnvEvent} {ts : List Turn} (h : s.turns = .env e :: ts) :
    step s = .next (State.envEvent e { s with turns := ts }) :=
  step_turn h nofun

/-- Settles O11: the reset state has these values, and the clock reads what the turn says. -/
theorem platformResetValues : Obligations.PlatformResetValues := fun _ x _ hts =>
  ⟨_, step_platformReset hts, State.platformReset_xtime _ x, State.platformReset_bound _ x, rfl, rfl, rfl, rfl, rfl, rfl,
    rfl, rfl, rfl, rfl, rfl, rfl, rfl, rfl, rfl, rfl, rfl, rfl⟩

/-- Settles O19: a turn of CLK is its one event. -/
theorem clockTurnCounts : Obligations.ClockTurnCounts := fun _ _ _ hts => step_env hts

theorem envEvent_wdg_armed {s : State} (h : s.wdArmed = true) : s.envEvent .wdg = s.hardFault .watchdog := if_pos h

theorem envEvent_wdg_disarmed {s : State} (h : s.wdArmed = false) : s.envEvent .wdg = s := if_neg (by simp [h])

/-- Where SEQ can take no step and nothing is scripted, the armed watchdog expires (R176; log entry 39). -/
theorem step_overdue {s : State} (hts : s.turns = []) (hr : readPort s = .nothing) (hwd : s.wdArmed = true) :
    step s = .next (s.hardFault .watchdog) := by
  have ho : s.overdue = s.hardFault .watchdog := by
    simp only [State.overdue, hr, hwd, if_true]
  rw [step_unscripted hts, ho, seqStep_stuck (.inl (State.hardFault_fault _ _))]

/-- Settles O36: WDG's one event, scripted or owed. -/
theorem watchdogExpiry : Obligations.WatchdogExpiry := by
  refine fun s => ⟨fun ts hts => ⟨fun hwd => ?_, fun hwd => ?_⟩, fun hts hhost hr hwd => ?_⟩
  · rw [step_env hts, envEvent_wdg_armed (s := { s with turns := ts }) hwd]
  · rw [step_env hts, envEvent_wdg_disarmed (s := { s with turns := ts }) hwd]
  · refine step_overdue hts ?_ hwd
    cases ho : s.portOpen with
    | true => rw [readPort_open ho, hhost]
    | false =>
      refine (readPort_closed ho).resolve_right fun ha => ?_
      rw [readPort_stuck ?_] at ha
      · exact nomatch ha
      · by_contra hc
        simp only [not_or, Bool.not_eq_true] at hc
        exact absurd ((portOpen_iff s).mpr ⟨hc.1, hc.2, .inr hr⟩) (by simp [ho])

/-- Settles O38: the edge sets the latch, and RIRQ is taken where its selection holds. -/
theorem edgeLatchedOrServed : Obligations.EdgeLatchedOrServed := by
  refine fun s ts hts => ⟨fun h => ?_, fun _ _ => ?_⟩
  · rw [step_env hts, envEvent_edge_of_not]
    rintro ⟨hn, hf⟩
    rcases h with h | h
    · exact h hn
    · exact absurd (hf.symm.trans h) (by decide)
  · rw [step_env hts]
    rfl

/-! ## HOST's writes (R40, R41, R43) -/

/-- HOST's write at SEQ's turn, scripted or not. -/
theorem step_write {s : State} {w : HostWrite} {rest : List HostAct}
    (hturn : s.turns = [] ∨ ∃ ts, s.turns = .seq :: ts) (hopen : s.portOpen = true) (hhost : s.host = .write w :: rest) :
    step s = hostWrite w { s with host := rest, turns := s.turns.tail } := by
  rw [step_of_act hturn hopen hhost]
  exact seqStep_write hopen hhost

/-- Settles O53: a write of FRAME is one write of its store, below MAX_LEN only; a write of RCFG is one of its fields. -/
theorem hostWritesItsWindow : Obligations.HostWritesItsWindow := by
  intro s rest hturn hopen hst u
  have hstep {w : HostWrite} (hhost : s.host = .write w :: rest) : step s = hostWrite w u := step_write hturn hopen hhost
  refine ⟨fun a v ha hhost => ?_, fun a v ha hhost => ?_, fun _ => hstep, fun _ => hstep, fun _ => hstep, fun _ => hstep,
    fun _ => hstep, fun _ => hstep, fun _ => hstep, fun _ => hstep, fun _ => hstep, fun _ => hstep, fun _ => hstep,
    fun _ => hstep, fun _ => hstep, fun _ => hstep, fun _ => hstep, fun _ => hstep, fun _ => hstep, fun _ => hstep⟩
  · refine ⟨{ u with frame := Memory.write u.frame a v }, ?_, memory_read_write_self v hst.1 ha,
      fun b hb => memory_read_write_other _ v hb, rfl⟩
    rw [hstep hhost]
    exact if_pos ha
  · rw [hstep hhost]
    exact if_neg (Nat.not_lt.mpr ha)

/-! ## Chip commands, and the busy line that never clears (R100, R192, U9) -/

theorem exec_rowFrame_quiet {i : Instr} {s : State} {n : Nat} (hfree : s.seqFree) (hq : s.quiet)
    (hb : s.busyNow = some n) {op : Byte} {out : List Byte} {st : Bool} {nin : Nat}
    (h : rowFrame Config.params s.rcfg i = some (op, out, st, nin)) :
    exec i s = .next (frameDone op out st nin n s) := by
  rw [exec_rowFrame h]
  exact internalOp_ok hfree (busFrame_quiet hq hb op out st nin)

/-- Settles O40: the frame of each row of R100. -/
theorem chipCommandFrames : Obligations.ChipCommandFrames := by
  intro s n hfree hq hb p
  have hrow {i : Instr} {op : Byte} {out : List Byte} {st : Bool} {nin : Nat}
      (h : rowFrame Config.params s.rcfg i = some (op, out, st, nin)) :
      exec i s = .next (frameDone op out st nin n s) := exec_rowFrame_quiet hfree hq hb h
  exact ⟨hrow rfl, hrow rfl, hrow rfl, hrow rfl, hrow rfl, fun _ => hrow rfl, hrow rfl, hrow rfl, hrow rfl, hrow rfl,
    fun _ => hrow rfl, hrow rfl, fun _ => hrow rfl, fun _ => hrow rfl, hrow rfl, hrow rfl, hrow rfl, fun _ _ => hrow rfl,
    fun _ _ => hrow rfl, fun _ _ => hrow rfl, fun _ _ => hrow rfl⟩

/-- A line that never clears is always scripted: its answer leaves the script (log entry 11). -/
theorem afterBusy_of_none {s : State} (h : s.busyNow = none) : s.afterBusy = { s with busyIn := s.busyIn.tail } := by
  unfold State.busyNow at h
  unfold State.afterBusy
  cases hb : s.busyIn with
  | nil => simp [hb] at h
  | cons b rest => rfl

theorem exec_rowFrame_hangs {i : Instr} {s : State} (hfree : s.seqFree) (hq : s.quiet) (hb : s.busyNow = none)
    {op : Byte} {out : List Byte} {st : Bool} {nin : Nat}
    (h : rowFrame Config.params s.rcfg i = some (op, out, st, nin)) :
    exec i s = .next { s with
      hung := true, rsleep := false, cs := .asserted, busyIn := s.busyIn.tail
      trace := s.trace ++ [.cs .asserted, .busyPoll] } := by
  rw [exec_rowFrame h, internalOp_error hfree (busFrame_hangs hq hb op out st nin), afterBusy_of_none hb]

/-- In a hang the other agents leave chip-select and the hang alone; what faults is the armed watchdog (R192). -/
theorem envEvent_of_hung {s : State} (hf : s.fault = false) (e : EnvEvent) :
    (s.envEvent e).hung = s.hung ∧ (s.envEvent e).cs = s.cs
      ∧ ((s.envEvent e).fault = true → s.wdArmed = true ∧ (s.envEvent e).faultCode = FaultCode.watchdog.code) := by
  cases e with
  | clk n => exact ⟨rfl, rfl, fun h => absurd (hf.symm.trans h) (by decide)⟩
  | edge =>
    show (State.serveIrq _).hung = _ ∧ (State.serveIrq _).cs = _ ∧ ((State.serveIrq _).fault = true → _)
    unfold State.serveIrq
    split <;> simp [hf]
  | wdg =>
    cases hwd : s.wdArmed with
    | false =>
      rw [envEvent_wdg_disarmed hwd]
      exact ⟨rfl, rfl, fun h => absurd (hf.symm.trans h) (by decide)⟩
    | true =>
      rw [envEvent_wdg_armed hwd]
      exact ⟨by simp, by simp, fun _ => ⟨rfl, hardFault_faultCode _ hf⟩⟩

/-- Settles O41: every row that is one frame stops at its third line, and from there only the other agents act. -/
theorem busyLineHangsFrame : Obligations.BusyLineHangsFrame := by
  refine ⟨fun s i hfree hq hb hcmd hirq hproc hx => ?_, fun u hh hf => ⟨fun i hi => ?_, fun t hstep hreset => ?_,
    fun hwd hts => ?_, fun x ts hts => ?_⟩⟩
  · obtain ⟨op, out, st, nin, hr⟩ := rowFrame_isSome Config.params s.rcfg hcmd hirq hproc hx
    exact exec_rowFrame_hangs hfree hq hb hr
  · exact exec_command_stuck hi (.inr hh)
  · rcases step_stuck (.inr hh) hstep with ⟨-, hwd, rfl⟩ | rfl | ⟨e, ts, hts, rfl⟩ | ⟨x, ts, hts⟩
    · exact ⟨by simpa using hh, by simp, fun _ => ⟨hwd, hardFault_faultCode _ hf⟩⟩
    · exact ⟨hh, rfl, fun h => absurd (hf.symm.trans h) (by decide)⟩
    · obtain ⟨hhung, hcs, hfault⟩ := envEvent_of_hung (s := { u with turns := ts }) hf e
      exact ⟨hhung.trans hh, hcs, hfault⟩
    · exact absurd hts (hreset x ts)
  · rcases hts with hts | ⟨ts, hts⟩
    · exact ⟨_, step_overdue hts (readPort_stuck (.inr hh)) hwd, State.hardFault_fault _ _, hardFault_faultCode _ hf⟩
    · refine ⟨_, step_env hts, ?_⟩
      rw [envEvent_wdg_armed (s := { u with turns := ts }) hwd]
      exact ⟨State.hardFault_fault _ _, hardFault_faultCode (s := { u with turns := ts }) _ hf⟩
  · exact ⟨_, step_platformReset hts, rfl, rfl⟩

end Sys2Proof.Machine
end

section
/-!
PROOF. The scheduler undisturbed (41_scheduler.md R135 to R153): what SCHED, CANCEL, XSTEP, SCHEDX and RIRQ leave, as the pure
effect of their lines on queue, records and counter, with the mask pair and the response.
-/

namespace Sys2Proof.Machine

/-! ## The order around the circle and in one window (R123) -/

theorem sdiff_add_self (a c : Tick) : sdiff a (a + c) = (-c).toInt := by
  rw [sdiff_eq_toInt_sub]
  exact congrArg BitVec.toInt (sub_add_cancel_left a c)

/-- Settles O15: three values 0x60000000 apart go past half the circle; in one window sdiff is the difference of the offsets. -/
theorem notlaterOrdersOneWindow : Obligations.NotlaterOrdersOneWindow := by
  refine ⟨?_, fun base o o' ho ho' => ?_⟩
  · intro a b c
    have hstep (x : Tick) : sdiff x (x + 0x60000000#32) = -0x60000000 := by
      rw [sdiff_add_self]
      decide
    have hac : sdiff a c = 2 ^ 30 := by
      show sdiff a (a + 0x60000000#32 + 0x60000000#32) = 2 ^ 30
      rw [add_assoc, sdiff_add_self]
      decide
    have hab : sdiff a b = -0x60000000 := hstep a
    have hbc : sdiff b c = -0x60000000 := hstep b
    simp [notlater, later, hab, hbc, hac]
  · have hdiff : sdiff (tickAdd base o) (tickAdd base o') = (o : Int) - o' := sdiff_window base ho ho'
    refine ⟨hdiff, ?_⟩
    rw [notlater, decide_eq_true_eq, hdiff]
    omega

/-! ## The insertion position (R139) -/

/-- Settles O21: the entries passed over are not later, and the first that is later stops the search. -/
theorem insertBeforeFirstLater : Obligations.InsertBeforeFirstLater := by
  intro dlOf j dl q
  induction q with
  | nil => exact ⟨[], [], rfl, rfl, nofun, nofun⟩
  | cons e rest ih =>
    cases hl : later (dlOf e) dl with
    | true =>
      refine ⟨[], e :: rest, rfl, by simp [insertBefore, hl], nofun, fun x hx => ?_⟩
      obtain rfl : e = x := by simpa using hx
      exact hl
    | false =>
      obtain ⟨pre, post, hq, hins, hpre, hpost⟩ := ih
      refine ⟨e :: pre, post, by rw [hq]; rfl, by simp [insertBefore, hl, hins], fun x hx => ?_, hpost⟩
      rcases List.mem_cons.mp hx with rfl | hx
      · exact hl
      · exact hpre x hx

/-! ## Lines 3 to 9 of SCHED as a change of three fields (R136) -/

theorem schedule_frame (s : State) (now : Tick) (j : JobId) (dl : Tick) (cb : CbId) (fl : FlagSet) :
    s.schedule now j dl cb fl = { s with
      q := (s.schedule now j dl cb fl).q, exactCnt := (s.schedule now j dl cb fl).exactCnt
      jobs := (s.schedule now j dl cb fl).jobs } := by
  unfold State.schedule State.countExact State.enqueue State.writeJob State.setJob State.unlink
  dsimp only
  split <;> rfl

theorem unlink_frame (s : State) (j : JobId) :
    s.unlink j = { s with q := (s.unlink j).q, exactCnt := (s.unlink j).exactCnt } := by
  unfold State.unlink
  split <;> rfl

/-- A state that has the queue, records and counter of a SCHED is scheduled from where that SCHED began. -/
theorem scheduledFrom_of_eq {s t : State} (h : StoreInv s) {now : Tick} {j : JobId} {dl : Tick} {cb : CbId} {fl : FlagSet}
    (hq : t.q = (s.schedule now j dl cb fl).q) (hc : t.exactCnt = (s.schedule now j dl cb fl).exactCnt)
    (hj : t.jobs = (s.schedule now j dl cb fl).jobs) : ScheduledFrom s t now j dl cb fl := by
  have hjob (k : JobId) : t.job k = (s.schedule now j dl cb fl).job k := by
    unfold State.job
    rw [hj]
  refine ⟨?_, ?_, ?_, fun k hk => ?_⟩
  · rw [hq, schedule_q]
    rfl
  · rw [hc, schedule_exactCnt, unlink_exactCnt]
    rfl
  · rw [hjob, schedule_job_self h.2]
    rfl
  · rw [hjob, schedule_job_other s now dl cb fl hk]

/-! ## The nesting around the lines of an operation (R180, R181) -/

theorem maskOn_append_maskOff (nest : BitVec NEST_W) : maskOn nest ++ maskOff (nest + 1) = maskPair nest := by
  unfold maskOn maskOff maskPair
  by_cases h : nest = 0#8
  · simp [h]
  · rw [if_neg h, if_neg h, if_neg (mt (nest_succ_eq_one nest).mp h), List.append_nil]

theorem irqDisable_quiet {s : State} (h : s.irqNest ≠ NEST_MAX) :
    irqDisable s = .ok () { s with irqNest := s.irqNest + 1, trace := s.trace ++ maskOn s.irqNest } :=
  irqDisable_ok h

/-- The enable that ends a suppression in which no interrupt came to wait. -/
theorem irqEnable_back {s u : State} (hn : s.irqNest ≠ NEST_MAX) (hi : s.irqSettled) (hf : s.fault = false)
    (hu : u.irqNest = s.irqNest + 1) (hp : u.irqPend = s.irqPend) (htr : u.trace = s.trace ++ maskOn s.irqNest) :
    irqEnable u = .ok () { u with irqNest := s.irqNest, trace := s.trace ++ maskPair s.irqNest } := by
  rw [irqEnable_ok (hu ▸ nest_succ_ne_zero hn) ?pend]
  case pend =>
    rintro ⟨h1, h2, -⟩
    exact hi hf ⟨hp ▸ h2, (nest_succ_eq_one _).mp (hu ▸ h1)⟩
  rw [htr, hu, List.append_assoc, BitVec.add_sub_cancel]
  exact congrArg (fun tr => EStateM.Result.ok () { u with irqNest := s.irqNest, trace := s.trace ++ tr })
    (maskOn_append_maskOff s.irqNest)

/-! ## The operations, undisturbed -/

theorem unlink_congr {s : State} (nest : BitVec NEST_W) (tr : List Event) (j : JobId) :
    State.unlink j { s with irqNest := nest, trace := tr } = { s.unlink j with irqNest := nest, trace := tr } := by
  unfold State.unlink State.queued State.job
  dsimp only
  split <;> rfl

section
variable {s : State} (hq : s.quiet) (hn : s.irqNest ≠ NEST_MAX) (hi : s.irqSettled) (hf : s.fault = false)
include hq hn hi hf

theorem schedOp_quiet (j : JobId) (dl : Tick) (cb : CbId) (fl : FlagSet) :
    schedOp j dl cb fl s = .ok () { s.schedule s.tick j dl cb fl with
      trace := s.trace ++ maskPair s.irqNest ++ [.resp 0#64] } := by
  unfold schedOp
  rw [bind_ok (irqDisable_quiet hn), tau_bind_quiet (by exact hq), readTick_bind, tau_bind_quiet (by exact hq),
    bind_ok (scheduleOp_quiet (by exact hq) _ _ _ _ _), schedule_congr, tau_bind_quiet (by simpa [State.quiet] using hq),
    bind_ok (irqEnable_back hn hi hf rfl (by simp) rfl), tau_bind_quiet (by simpa [State.quiet] using hq), emit_run]
  simp only [State.tick]
  rw [schedule_frame]
  rfl

theorem cancelOp_quiet (j : JobId) :
    cancelOp j s = .ok () { s with
      q := (s.unlink j).q
      exactCnt := (s.unlink j).exactCnt
      trace := s.trace ++ maskPair s.irqNest ++ [.resp (if s.queued j then 1#64 else 0#64)] } := by
  unfold cancelOp
  rw [bind_ok (irqDisable_quiet hn), tau_bind_quiet (by exact hq), rd_bind, upd_bind, unlink_congr,
    tau_bind_quiet (by simpa [State.quiet] using hq), bind_ok (irqEnable_back hn hi hf rfl (by simp) rfl),
    tau_bind_quiet (by simpa [State.quiet] using hq), emit_run, unlink_frame]
  simp only [State.queued]
  rfl

theorem schedPrime_eq (now : Tick) (j : JobId) (dl : Tick) (cb : CbId) (fl : FlagSet) :
    schedPrime now j dl cb fl s
      = .ok () { s.schedule now j dl cb fl with trace := s.trace ++ maskPair s.irqNest } :=
  schedPrime_quiet hq hn hi hf now j dl cb fl

end

theorem maskPair_of_ne {n : BitVec NEST_W} (h : n ≠ 0#8) : maskPair n = [] := if_neg h

/-- What XSTEP schedules at s (R152, R153). -/
def State.xstepAt (j : JobId) (s : State) : State :=
  let c := xstepChoice s.xtime (s.job j).xdl (s.job j).xcb
  s.schedule s.tick j c.1 c.2.1 c.2.2

theorem nest_two_below {n : BitVec NEST_W} (h : n.toNat + 2 ≤ NEST_MAX.toNat) : n ≠ NEST_MAX ∧ n + 1 ≠ NEST_MAX := by
  have hmax : NEST_MAX.toNat = 255 := rfl
  constructor <;> intro hc
  · rw [hc] at h
    omega
  · have hadd : (n + 1).toNat = (n.toNat + 1) % 256 := BitVec.toNat_add n 1
    rw [hc] at hadd
    omega

theorem xstepOp_quiet {s : State} (hq : s.quiet) (hn : s.irqNest.toNat + 2 ≤ NEST_MAX.toNat) (hi : s.irqSettled)
    (hf : s.fault = false) (j : JobId) :
    xstepOp j s = .ok () { s.xstepAt j with trace := s.trace ++ maskPair s.irqNest } := by
  obtain ⟨hn1, hn2⟩ := nest_two_below hn
  have hlocked : s.irqNest + 1 ≠ 0#8 := nest_succ_ne_zero hn1
  unfold xstepOp
  rw [bind_ok (irqDisable_quiet hn1), tau_bind_quiet (by exact hq), rd_bind, tau_bind_quiet (by exact hq), rd_bind,
    tau_bind_quiet (by exact hq)]
  rw [bind_ok (schedPrime_eq (by exact hq) hn2 (fun _ hc => hlocked hc.2) (by exact hf) _ _ _ _ _), schedule_congr,
    tau_bind_quiet (by simpa [State.quiet] using hq)]
  rw [irqEnable_back hn1 hi hf (by simp) (by simp) (by rw [maskPair_of_ne hlocked, List.append_nil])]
  simp only [State.xstepAt, State.tick, xt2tick, State.job]
  rw [schedule_frame]

theorem xstepAt_congr {s : State} (nest : BitVec NEST_W) (tr : List Event) (j : JobId) :
    State.xstepAt j { s with irqNest := nest, trace := tr } = { s.xstepAt j with irqNest := nest, trace := tr } :=
  schedule_congr nest tr ..

/-- Lines 2 and 3 of SCHEDX: the old entry is off the queue and the wide deadline is written (R150). -/
def State.extended (j : JobId) (xdl : XTime) (cb : CbId) (s : State) : State := (s.unlink j).writeExt j xdl cb

theorem extended_congr {s : State} (nest : BitVec NEST_W) (tr : List Event) (j : JobId) (xdl : XTime) (cb : CbId) :
    State.writeExt j xdl cb (State.unlink j { s with irqNest := nest, trace := tr })
      = { s.extended j xdl cb with irqNest := nest, trace := tr } := by
  rw [unlink_congr]
  rfl

theorem schedxOp_quiet {s : State} (hq : s.quiet) (hn : s.irqNest.toNat + 3 ≤ NEST_MAX.toNat) (hi : s.irqSettled)
    (hf : s.fault = false) (j : JobId) (xdl : XTime) (cb : CbId) :
    schedxOp j xdl cb s = .ok () { (s.extended j xdl cb).xstepAt j with
      trace := s.trace ++ maskPair s.irqNest ++ [.resp 0#64] } := by
  obtain ⟨hn1, hn2⟩ := nest_two_below (n := s.irqNest) (by omega)
  have hlocked : s.irqNest + 1 ≠ 0#8 := nest_succ_ne_zero hn1
  have hadd : (s.irqNest + 1).toNat = s.irqNest.toNat + 1 := by
    have hmax : NEST_MAX.toNat = 255 := rfl
    exact (BitVec.toNat_add s.irqNest 1).trans (Nat.mod_eq_of_lt (by show s.irqNest.toNat + 1 < 256; omega))
  have hextq : (s.extended j xdl cb).quiet := by simpa [State.extended, State.quiet] using hq
  have hxq : ((s.extended j xdl cb).xstepAt j).quiet := by simpa [State.xstepAt, State.quiet] using hextq
  unfold schedxOp
  rw [bind_ok (irqDisable_quiet hn1), tau_bind_quiet (by exact hq), upd_bind,
    tau_bind_quiet (by simpa [State.quiet] using hq), upd_bind, extended_congr, tau_bind_quiet (by exact hextq),
    bind_ok (xstepOp_quiet (by exact hextq) (by show (s.irqNest + 1).toNat + 2 ≤ _; omega) (fun _ hc => hlocked hc.2)
      (by simpa [State.extended] using hf) j),
    xstepAt_congr, tau_bind_quiet (by exact hxq),
    bind_ok (irqEnable_back hn1 hi hf (by simp) (by simp [State.xstepAt, State.extended])
      (by rw [maskPair_of_ne hlocked, List.append_nil])),
    tau_bind_quiet (by exact hxq), emit_run]
  have hnest : ((s.extended j xdl cb).xstepAt j).irqNest = s.irqNest := by simp [State.xstepAt, State.extended]
  rw [← hnest]
  rfl

/-! ## The completions (R136, R145, R150, R152, R245) -/

/-- A command that runs to its end, by its lines. -/
theorem exec_ok {i : Instr} {m : Op Unit} {s t : State} (hi : commandLines i = some m)
    (ha : s.acceptance (classOf i) = .accepted) (hm : m s = .ok () t) : exec i s = .next t := by
  rw [exec_command hi]
  exact command_ok ha hm

/-- Settles O22: the pure effect of lines 3 to 9 between the mask pair, and normalisation read off its two cases. -/
theorem schedCompletes : Obligations.SchedCompletes := by
  intro s j dl cb fl ha hq hn hi hst
  have hrun := schedOp_quiet hq hn hi (accepted_free ha).1 j dl cb fl
  have hsched := scheduledFrom_of_eq hst (t := { s.schedule s.tick j dl cb fl with
    trace := s.trace ++ maskPair s.irqNest ++ [.resp 0#64] }) rfl rfl rfl
  refine ⟨_, exec_ok rfl ha hrun, hsched, ?_, fun hnow => ?_, fun himm hahead => ?_, rfl, ?_⟩
  · rw [hsched.2.2.1]
    rfl
  · have hnorm : normalise s.tick dl fl = (s.tick, flSetImmed fl) := by
      rcases normalise_cases s.tick dl fl with h | ⟨-, hahead, himm⟩
      · exact h
      · rcases hnow with h | h
        · exact absurd (himm.symm.trans h) (by decide)
        · omega
    rw [hsched.2.2.1, scheduledRec, hnorm]
    exact ⟨rfl, rfl⟩
  · rw [hsched.2.2.1, scheduledRec, normalise_of_ahead himm hahead]
    exact ⟨rfl, rfl⟩
  · rw [schedule_frame]

/-- Settles O24: CANCEL is unlink between the mask pair. -/
theorem cancelCompletes : Obligations.CancelCompletes := by
  intro s j ha hq hn hi
  have hrun := cancelOp_quiet hq hn hi (accepted_free ha).1 j
  simp only [queued_iff] at hrun
  exact exec_ok rfl ha hrun

/-- Settles O27: XSTEP is its choice, scheduled at the sampled clock. -/
theorem xstepCompletes : Obligations.XstepCompletes := by
  intro s j hfree hq hn hi hst
  refine ⟨_, internalOp_ok hfree (xstepOp_quiet hq hn hi hfree.1 j), ?_, rfl, ?_⟩
  · exact scheduledFrom_of_eq hst rfl rfl rfl
  · rw [State.xstepAt, schedule_frame]

section
variable {s : State} (j : JobId) (xdl : XTime) (cb : CbId)
theorem extended_job_self (hst : StoreInv s) : (s.extended j xdl cb).job j = { s.job j with xdl := xdl, xcb := cb } := by
  rw [State.extended, writeExt_self (by simpa using hst.2), unlink_job]

theorem extended_job_other {k : JobId} (hk : k ≠ j) : (s.extended j xdl cb).job k = s.job k := by
  rw [State.extended, writeExt_other _ xdl cb hk, unlink_job]

theorem extended_stores (hst : StoreInv s) : StoreInv (s.extended j xdl cb) :=
  stores_setJob (stores_congr (by simp) (by simp) hst) j _

/-- Scheduling a job whose old entry is gone already inserts it where SCHED would have (R139, R150). -/
theorem extended_schedule_q (now dl : Tick) (cb' : CbId) (fl : FlagSet) :
    ((s.extended j xdl cb).schedule now j dl cb' fl).q = scheduledQueue now dl fl j s := by
  have hqe : (s.extended j xdl cb).q = s.q.filter (· != j) := unlink_q s j
  rw [schedule_q, hqe, List.filter_filter]
  simp only [Bool.and_self]
  refine insertBefore_congr fun e he => ?_
  have hne : e ≠ j := by simpa using (List.mem_filter.mp he).2
  exact congrArg JobRec.dl (extended_job_other j xdl cb hne)

/-- An APPROX entry is not counted, and the old one is counted off (R140). -/
theorem extended_schedule_count (now dl : Tick) (cb' : CbId) {fl : FlagSet} (hfl : flApprox fl = true) :
    ((s.extended j xdl cb).schedule now j dl cb' fl).exactCnt = (s.unlink j).exactCnt := by
  have hgone : j ∉ (s.extended j xdl cb).q := unlink_not_mem s j
  rw [schedule_exactCnt, if_pos hfl, unlink_of_not_mem hgone]
  rfl

end

/-- Settles O25: lines 2 and 3, and XSTEP from there. -/
theorem schedxCompletes : Obligations.SchedxCompletes := by
  intro s j xdl cb ha hq hn hi hst
  have hx : (s.extended j xdl cb).xstepAt j = (s.extended j xdl cb).schedule s.tick j
      (xstepChoice s.xtime xdl cb).1 (xstepChoice s.xtime xdl cb).2.1 (xstepChoice s.xtime xdl cb).2.2 := by
    have htime : (s.extended j xdl cb).xtime = s.xtime := by simp [State.extended]
    rw [State.xstepAt, State.tick, htime, extended_job_self j xdl cb hst]
    rfl
  have hself := schedule_job_self (extended_stores j xdl cb hst).2 s.tick j (xstepChoice s.xtime xdl cb).1
    (xstepChoice s.xtime xdl cb).2.1 (xstepChoice s.xtime xdl cb).2.2
  rw [extended_job_self j xdl cb hst] at hself
  have hrun := schedxOp_quiet hq hn hi (accepted_free ha).1 j xdl cb
  rw [hx] at hrun
  refine ⟨_, exec_ok rfl ha hrun, ⟨hself, extended_schedule_q j xdl cb _ _ _ _,
    extended_schedule_count j xdl cb _ _ _ (xstepChoice_flags s.xtime xdl cb).1⟩, fun k hk => ?_, rfl, ?_⟩
  · exact (schedule_job_other _ _ _ _ _ hk).trans (extended_job_other j xdl cb hk)
  · rw [schedule_frame, State.extended, State.writeExt, State.setJob, unlink_frame]

/-- Settles O37: where RIRQ is selected it is SCHED of RJOB at the tick it captures. -/
theorem rirqQueuesProcessing : Obligations.RirqQueuesProcessing := by
  intro s hp hn hf hst
  have hsched : ScheduledFrom s s.rirq s.tick RJOB s.tick CB_RPROC FL_IMMED := by
    rw [rirq_eq]
    exact scheduledFrom_of_eq hst rfl rfl rfl
  refine ⟨s.rirq, congrArg Host.Outcome.next (serveIrq_of hp hn hf), State.rirq_irqPend s, ?_, hsched, ?_, ?_, ?_⟩
  · rw [rirq_eq]
  · rw [hsched.2.2.1, scheduledRec, normalise_of_due FL_IMMED (due_self s.tick)]
    rfl
  · rw [rirq_eq]
  · rw [rirq_eq, schedule_frame]

end Sys2Proof.Machine
end

section
/-!
PROOF. The clock reads, the nesting commands and the two ends of a run of the loop, undisturbed (40_clock.md R116, R117;
42_runloop.md R165, R171, R177 to R183): RUNSTEP up to its sleep call, finish(), and what faults at the nesting limits.
-/

namespace Sys2Proof.Machine

/-! ## Reading the clock (R116, R117) -/

/-- Settles O18: both reads answer the same sample of XTIME. -/
theorem clockReadsAnswer : Obligations.ClockReadsAnswer := by
  intro s ha hq
  refine ⟨exec_ok rfl ha ?_, exec_ok rfl ha ?_, rfl⟩
  · unfold gettickOp
    rw [readTick_bind, tau_bind_quiet hq, emit_run]
    rfl
  · unfold getxtimeOp
    rw [rd_bind, tau_bind_quiet hq, emit_run]
    rfl

/-! ## The nesting commands (R180 to R183) -/

theorem irqdisOp_quiet {s : State} (hq : s.quiet) (hn : s.irqNest ≠ NEST_MAX) :
    irqdisOp s = .ok () { s with irqNest := s.irqNest + 1, trace := s.trace ++ maskOn s.irqNest ++ [.resp 0#64] } := by
  unfold irqdisOp
  rw [bind_ok (irqDisable_quiet hn), tau_bind_quiet (by exact hq), emit_run]
  rfl

/-- IRQEN is the enable and the response. -/
theorem irqenOp_quiet {s t : State} (h : irqEnable s = .ok () t) (hq : t.quiet) :
    irqenOp s = .ok () (t.emit (.resp 0#64)) := by
  unfold irqenOp
  rw [bind_ok h, tau_bind_quiet hq, emit_run]

/-- Settles O34: IRQDIS and IRQEN are the nesting primitives with their response. -/
theorem nestingCommandsComplete : Obligations.NestingCommandsComplete := by
  intro s ha hq
  have hf := (accepted_free ha).1
  refine ⟨fun hn => exec_ok rfl ha (irqdisOp_quiet hq hn), fun h0 hp => exec_ok rfl ha ?_, fun h1 hp => exec_ok rfl ha ?_⟩
  · exact irqenOp_quiet (irqEnable_ok h0 fun hc => hp ⟨hc.1, hc.2.1⟩) hq
  · exact irqenOp_quiet (irqEnable_serves h1 hp hf) (by rw [rirq_eq]; simpa [State.quiet] using hq)

/-! ## RUNSTEP up to its sleep call (R165, R167, R168) -/

theorem sleepCall_eq (s : State) : s.sleepCall = callOf s := by
  unfold State.sleepCall callOf
  cases s.q with
  | nil => rfl
  | cons h rest => rfl

theorem runstepOp_quiet {s : State} (hq : s.quiet) (hn : s.irqNest ≠ NEST_MAX) :
    runstepOp s = .ok () { s with
      irqNest := s.irqNest + 1, rlState := .sleeping, trace := s.trace ++ maskOn s.irqNest ++ [callOf s] } := by
  unfold runstepOp
  rw [bind_ok (irqDisable_quiet hn), tau_bind_quiet (by exact hq), upd_bind, tau_bind_quiet (by exact hq), upd_run,
    sleepCall_eq]
  rfl

theorem runloopOp_eq {s : State} (hq : s.quiet) : runloopOp s = runstepOp { s with rlLoop := true } := by
  unfold runloopOp
  rw [upd_bind, tau_bind_quiet (by exact hq)]

/-- Settles O28: RUNLOOP sets RL_LOOP and is RUNSTEP from there. -/
theorem runstepEntersSleep : Obligations.RunstepEntersSleep := by
  intro s ha hq hn
  refine ⟨exec_ok rfl ha (runstepOp_quiet hq hn), exec_ok rfl ha ?_⟩
  rw [runloopOp_eq hq, runstepOp_quiet (by exact hq) (by exact hn)]
  rfl

/-! ## finish() (R165 f1 to f3, R171, R177) -/

/-- Lines f1 and f2: the watchdog disarmed, no current job, RL_STATE at rest. -/
def State.finished (s : State) : State :=
  { s with
    wdArmed := false, curJob := NIL, rlState := .stopped
    trace := s.trace ++ if s.wdArmed then [.wdDisarm] else [] }

theorem disarm_run (s : State) :
    disarm s = .ok () { s with wdArmed := false, trace := s.trace ++ if s.wdArmed then [.wdDisarm] else [] } := by
  unfold disarm
  rw [upd_run]
  cases h : s.wdArmed with
  | true => rfl
  | false =>
    simp only [Bool.false_eq_true, if_false, List.append_nil]
    rw [← h]

theorem finishOp_eq {s : State} (hq : s.quiet) : finishOp s = finishAnswer s.finished := by
  unfold finishOp
  rw [bind_ok (disarm_run s), tau_bind_quiet (by exact hq), upd_bind, tau_bind_quiet (by exact hq)]
  rfl

theorem finishOp_answers {s : State} (hq : s.quiet) (hl : s.rlLoop = false) :
    finishOp s = .ok () (s.finished.emit (.resp 0#64)) := by
  rw [finishOp_eq hq]
  unfold finishAnswer
  rw [rd_bind, show s.finished.rlLoop = false from hl]
  rfl

/-- Under RL_LOOP the end of a step is the beginning of the next (R177). -/
theorem finishOp_loops {s : State} (hq : s.quiet) (hl : s.rlLoop = true) : finishOp s = runstepOp s.finished := by
  rw [finishOp_eq hq]
  unfold finishAnswer
  rw [rd_bind, show s.finished.rlLoop = true from hl]
  rfl

/-- Settles O33: CBRET is finish(). -/
theorem cbretFinishes : Obligations.CbretFinishes := by
  intro s ha hq
  refine ⟨fun hl => exec_ok rfl ha (finishOp_answers hq hl), fun hl hn => exec_ok rfl ha ?_⟩
  rw [finishOp_loops hq hl, runstepOp_quiet (by exact hq) (by exact hn)]
  rfl

/-! ## The nesting limits (R180, D16) -/

/-- A command whose lines end in a fault. -/
theorem exec_error {i : Instr} {m : Op Unit} {s t : State} {e : Stop} (hi : commandLines i = some m)
    (ha : s.acceptance (classOf i) = .accepted) (hm : m s = .error e t) : exec i s = .next t := by
  rw [exec_command hi]
  exact command_error ha hm

/-- An operation whose first line disables faults at the limit with nothing done. -/
theorem disable_first_max {α : Type} {s : State} (h : s.irqNest = NEST_MAX) (rest : Unit → Op α) :
    (irqDisable >>= rest) s = .error .fatal (s.hardFault .assertion) :=
  bind_error (irqDisable_max h)

theorem xstepOp_max {s : State} (h : s.irqNest = NEST_MAX) (j : JobId) :
    xstepOp j s = .error .fatal (s.hardFault .assertion) :=
  disable_first_max h _

/-- One level below the limit XSTEP's own disable passes and its inner SCHED faults. -/
theorem xstepOp_inner_max {s : State} (hq : s.quiet) (h : s.irqNest = NEST_MAX - 1) (j : JobId) :
    xstepOp j s = .error .fatal (State.hardFault .assertion { s with irqNest := NEST_MAX }) := by
  have hdis : irqDisable s = .ok () { s with irqNest := NEST_MAX } := by
    rw [irqDisable_quiet (by rw [h]; decide), h, show maskOn (NEST_MAX - 1) = [] from rfl, List.append_nil]
    rfl
  unfold xstepOp
  rw [bind_ok hdis, tau_bind_quiet (by exact hq), rd_bind, tau_bind_quiet (by exact hq), rd_bind,
    tau_bind_quiet (by exact hq)]
  exact bind_error (disable_first_max rfl _)

/-- One or two levels below the limit SCHEDX has done its lines 2 and 3 before XSTEP faults. -/
theorem schedxOp_limit {s : State} (hq : s.quiet) (h : s.irqNest = NEST_MAX - 1 ∨ s.irqNest = NEST_MAX - 2) (j : JobId)
    (xdl : XTime) (cb : CbId) :
    schedxOp j xdl cb s
      = .error .fatal (State.hardFault .assertion { s.extended j xdl cb with irqNest := NEST_MAX }) := by
  have hne : s.irqNest ≠ NEST_MAX := by rcases h with h | h <;> rw [h] <;> decide
  have hon : maskOn s.irqNest = [] := by rcases h with h | h <;> rw [h] <;> rfl
  have hextq : (s.extended j xdl cb).quiet := by simpa [State.extended, State.quiet] using hq
  have htr : (s.extended j xdl cb).trace = s.trace := by simp [State.extended]
  unfold schedxOp
  rw [bind_ok (irqDisable_quiet hne), hon, List.append_nil, tau_bind_quiet (by exact hq), upd_bind,
    tau_bind_quiet (by simpa [State.quiet] using hq), upd_bind, extended_congr, ← htr, tau_bind_quiet (by exact hextq)]
  rcases h with h | h
  · exact bind_error (xstepOp_max (by rw [h]; rfl) j |>.trans (by rw [h]; rfl))
  · exact bind_error (xstepOp_inner_max (by exact hextq) (by rw [h]; rfl) j)

theorem extended_unlink (s : State) (j : JobId) (xdl : XTime) (cb : CbId) :
    s.extended j xdl cb = (s.unlink j).setJob j { s.job j with xdl := xdl, xcb := cb } := by
  rw [State.extended, State.writeExt, unlink_job]

theorem runstepOp_max {s : State} (h : s.irqNest = NEST_MAX) : runstepOp s = .error .fatal (s.hardFault .assertion) :=
  disable_first_max h _

/-- Under RL_LOOP the next step's disable faults with the finished one done. -/
theorem finishOp_limit {s : State} (hq : s.quiet) (hl : s.rlLoop = true) (h : s.irqNest = NEST_MAX) :
    finishOp s = .error .fatal (s.finished.hardFault .assertion) := by
  rw [finishOp_loops hq hl]
  exact runstepOp_max h

theorem runloopOp_limit {s : State} (hq : s.quiet) (h : s.irqNest = NEST_MAX) :
    runloopOp s = .error .fatal (State.hardFault .assertion { s with rlLoop := true }) := by
  rw [runloopOp_eq hq]
  exact runstepOp_max h

end Sys2Proof.Machine
end

section
/-!
PROOF. The rest of RUNSTEP once its sleep call answers (42_runloop.md R165 steps 2e to 5g, R166, R169 to R172): the head taken
off, interrupts restored, lateness counted, the watchdog armed, and the three callbacks; and a step ended by an event.
-/

namespace Sys2Proof.Machine

/-! ## The turn that answers a sleep call (log entry 6) -/

section
variable {s : State} {ts : List Turn} (hfree : s.seqFree) (hrl : s.rlState = .sleeping)
include hfree hrl

theorem step_reached {h : JobId} {rest : List JobId} (hts : s.turns = .sleepReturns .reached :: ts) (hQ : s.q = h :: rest)
    (hdue : due (s.job h).dl s.tick = true) :
    step s = .next (runOp (sleepReached Config.params h) { s with turns := ts }) := by
  obtain ⟨hf, hh⟩ := hfree
  have hdue' : due (State.job { s with turns := ts } h).dl (State.tick { s with turns := ts }) = true := hdue
  rw [step_turn hts (by simp)]
  simp only [State.turn, State.sleepReturns, hf, hh, hrl, hQ, Bool.false_or, bne_self_eq_false, Bool.false_eq_true, if_false]
  rw [if_pos (by simpa only [hf, hh, hrl, hQ] using hdue')]

theorem step_interrupted (hts : s.turns = .sleepReturns .interrupted :: ts) :
    step s = .next (runOp sleepInterrupted { s with turns := ts }) := by
  obtain ⟨hf, hh⟩ := hfree
  rw [step_turn hts (by simp)]
  simp only [State.turn, State.sleepReturns, hf, hh, hrl, Bool.false_or, bne_self_eq_false, Bool.false_eq_true, if_false]

end

/-! ## Steps 2e to 4: the dequeue and the restoring of interrupts -/

section
variable {s : State} {h : JobId}

theorem restoreUnlessOff_kept (hn : s.irqNest ≠ 0#8) (hs : ¬Serves s h) :
    restoreUnlessOff h s = .ok () { s with
      irqNest := if flIrqOff (s.job h).fl then s.irqNest else s.irqNest - 1
      trace := s.trace ++ if flIrqOff (s.job h).fl then [] else maskOff s.irqNest } := by
  unfold restoreUnlessOff
  rw [rd_bind]
  cases hoff : flIrqOff (s.job h).fl with
  | true =>
    simp only [if_true, List.append_nil]
    rfl
  | false =>
    simp only [Bool.false_eq_true, if_false]
    exact irqEnable_ok hn fun hc => hs ⟨hc.2.1, hc.1, hoff⟩

theorem restoreUnlessOff_serves (hf : s.fault = false) (hs : Serves s h) : restoreUnlessOff h s = .ok () (served s) := by
  obtain ⟨hp, hn, hoff⟩ := hs
  unfold restoreUnlessOff
  rw [rd_bind, hoff]
  exact irqEnable_serves hn hp hf

theorem sleepReached_restores {t : State} {ts : List Turn} {rest : List JobId} (p : Params) (hq : s.quiet) (hQ : s.q = h :: rest)
    (hnd : s.q.Nodup) (hr : restoreUnlessOff h (dequeued s ts h rest) = .ok () t) (ht : t.quiet) :
    sleepReached p h { s with turns := ts } = dispatchOp p h t := by
  have hdeq : State.unlink h { s with turns := ts, rlState := .stopped } = dequeued s ts h rest := by
    rw [unlink_of_mem (s := { s with turns := ts, rlState := .stopped }) (show h ∈ s.q by simp [hQ])]
    simp only [hQ, filter_head (hQ ▸ hnd)]
    rfl
  unfold sleepReached
  rw [upd_bind, tau_bind_quiet (by exact hq), upd_bind, hdeq, tau_bind_quiet (by exact hq), bind_ok hr, tau_bind_quiet ht]

/-! ## Step 5: lateness, the watchdog, the callback -/

/-- Steps 5a to 5d (R172): a late job is counted and shown, the watchdog is armed. -/
def State.watched (p : Params) (j : JobId) (s : State) : State :=
  { s with
    lateCnt := if isLate p (s.job j) s.tick then s.lateCnt + 1 else s.lateCnt
    wdArmed := true
    curJob := j
    trace := s.trace ++ (if isLate p (s.job j) s.tick then [.late j (-(sdiff (s.job j).dl s.tick))] else []) ++ [.wdArm] }

theorem isLate_iff (p : Params) (r : JobRec) (t : Tick) :
    isLate p r t = true ↔ flApprox r.fl = false ∧ flImmed r.fl = false ∧ sdiff r.dl t < -(p.lateTol : Int) := by
  simp [isLate, and_assoc]

theorem lateCheck_run (p : Params) (j : JobId) (t : Tick) :
    lateCheck p j t s = .ok () { s with
      lateCnt := if isLate p (s.job j) t then s.lateCnt + 1 else s.lateCnt
      trace := s.trace ++ if isLate p (s.job j) t then [.late j (-(sdiff (s.job j).dl t))] else [] } := by
  simp only [lateCheck, upd_run, ← isLate_iff]
  cases isLate p (s.job j) t with
  | true => rfl
  | false => simp only [Bool.false_eq_true, if_false, List.append_nil]

theorem dispatchOp_quiet (hq : s.quiet) (p : Params) {j : JobId} {cb : CbId} (hcb : (s.job j).cb = cb) :
    dispatchOp p j s = invoke p j cb (s.watched p j) := by
  subst hcb
  unfold dispatchOp armWatchdog
  rw [readTick_bind, bind_ok (lateCheck_run p j s.tick), tau_bind_quiet (by exact hq), upd_bind, tau_bind_quiet (by exact hq),
    rd_bind, tau_bind_quiet (by exact hq)]
  rfl

theorem invoke_host (p : Params) (j : JobId) {cb : CbId} (hx : cb ≠ CB_XSTEP) (hr : cb ≠ CB_RPROC) :
    invoke p j cb s = .ok () { s with rlState := .dispatching, trace := s.trace ++ [.dispatch j cb] } := by
  unfold invoke
  rw [if_neg hx, if_neg hr]
  rfl

theorem invoke_xstep (p : Params) (j : JobId) :
    invoke p j CB_XSTEP s = (xstepOp j >>= fun _ => tau >>= fun _ => finishOp) s := by
  unfold invoke
  rw [if_pos rfl]

theorem invoke_rproc (p : Params) (j : JobId) : invoke p j CB_RPROC s = rprocOp p s := by
  unfold invoke
  rw [if_neg (by decide), if_pos rfl]

end

/-! ## What an interrupt served at step 4 leaves (R245, R283 b) -/

section
variable (s : State)

theorem served_quiet {s : State} (hq : s.quiet) : (served s).quiet := by simpa [served, State.quiet] using hq

theorem served_job_other {k : JobId} (hk : k ≠ RJOB) : (served s).job k = s.job k := rirq_job_other _ hk

/-- RJOB as RIRQ leaves it: due now, immediate, with the processing callback. -/
theorem served_job_rjob {s : State} (hst : StoreInv s) :
    (served s).job RJOB = { s.job RJOB with dl := s.tick, cb := CB_RPROC, fl := flSetImmed FL_IMMED } := by
  have hself := schedule_job_self (s := { s with irqNest := 0#8, trace := s.trace ++ [.irqMask false] }) hst.2 s.tick RJOB s.tick
    CB_RPROC FL_IMMED
  rw [normalise_of_due FL_IMMED (due_self s.tick)] at hself
  rw [served, rirq_eq]
  exact hself

theorem mem_served {k : JobId} : k ∈ (served s).q ↔ k = RJOB ∨ k ∈ s.q := by
  have hqueue : (served s).q = insertBefore s.dlOf RJOB s.tick (s.q.filter (· != RJOB)) := by
    have h := schedule_q { s with irqNest := 0#8, trace := s.trace ++ [.irqMask false] } s.tick RJOB s.tick CB_RPROC FL_IMMED
    rw [normalise_of_due FL_IMMED (due_self s.tick)] at h
    rw [served, rirq_eq]
    exact h
  rw [hqueue, mem_insertBefore, List.mem_filter, bne_iff_ne]
  by_cases hk : k = RJOB <;> simp [hk]

theorem isLate_immed (p : Params) {r : JobRec} (h : flImmed r.fl = true) (t : Tick) : isLate p r t = false := by
  simp [isLate, h]

end

/-! ## REACHED with a job of HOST at the head -/

/-- Settles O29: the state the callback is invoked from, with and without an interrupt served at step 4. -/
theorem sleepReachedDispatches : Obligations.SleepReachedDispatches := by
  intro s ts h rest hts hfree hrl hq hQ hnd hdue hn hx hr
  rw [step_reached hfree hrl hts hQ hdue]
  refine ⟨fun hs => congrArg Host.Outcome.next (runOp_ok (a := ()) ?_),
    fun hs hne => congrArg Host.Outcome.next (runOp_ok (a := ()) ?_)⟩
  · rw [sleepReached_restores _ hq hQ hnd (restoreUnlessOff_kept (s := dequeued s ts h rest) hn hs) hq,
      dispatchOp_quiet (by exact hq) _ rfl]
    refine (invoke_host Config.params h hx hr).trans ?_
    simp only [State.watched, dequeued, List.append_assoc]
    rfl
  · have huq : (served (dequeued s ts h rest)).quiet := served_quiet (by exact hq)
    have hjob : (served (dequeued s ts h rest)).job h = s.job h := served_job_other _ hne
    have htick : (served (dequeued s ts h rest)).tick = s.tick := by simp [State.tick, served, dequeued]
    rw [sleepReached_restores _ hq hQ hnd (restoreUnlessOff_serves (s := dequeued s ts h rest) hfree.1 hs) huq,
      dispatchOp_quiet huq _ (congrArg JobRec.cb hjob)]
    refine (invoke_host Config.params h hx hr).trans ?_
    have hlate : (served (dequeued s ts h rest)).lateCnt = s.lateCnt := by simp [served, dequeued]
    simp only [State.watched, hjob, htick, hlate, List.append_assoc]
    rfl

/-! ## REACHED with RJOB at the head -/

theorem exec_rproc_free {s : State} (hfree : s.seqFree) : exec .rproc s = .next (runOp (rprocOp Config.params) s) := by
  rw [exec_rproc]
  simp [internalOp, hfree.1, hfree.2]

/-- Settles O31: RPROC runs from the armed state; after a served interrupt RJOB's record is immediate, so it is not late. -/
theorem sleepReachedRunsRproc : Obligations.SleepReachedRunsRproc := by
  intro s ts rest hts hfree hrl hq hQ hnd hst hdue hn hcb
  obtain ⟨hf, hh⟩ := hfree
  rw [step_reached ⟨hf, hh⟩ hrl hts hQ hdue]
  constructor
  · intro hs
    refine Eq.trans ?_ (exec_rproc_free (by exact ⟨hf, hh⟩)).symm
    simp only [runOp]
    rw [sleepReached_restores _ hq hQ hnd (restoreUnlessOff_kept (s := dequeued s ts RJOB rest) hn hs) hq,
      dispatchOp_quiet (by exact hq) _ (by exact hcb), invoke_rproc]
    rfl
  · intro hs
    have huq : (served (dequeued s ts RJOB rest)).quiet := served_quiet (by exact hq)
    have hrec := served_job_rjob (s := dequeued s ts RJOB rest) hst
    refine ⟨(mem_served _).mpr (.inl rfl), by simp [served, rirq_eq, dequeued, State.tick], ?_⟩
    refine Eq.trans ?_
      (exec_rproc_free (by simpa [served, dequeued] using And.intro hf hh)).symm
    simp only [runOp]
    rw [sleepReached_restores _ hq hQ hnd (restoreUnlessOff_serves (s := dequeued s ts RJOB rest) hf hs) huq,
      dispatchOp_quiet huq _ (congrArg JobRec.cb hrec), invoke_rproc]
    have hlate : isLate Config.params ((served (dequeued s ts RJOB rest)).job RJOB)
        (served (dequeued s ts RJOB rest)).tick = false :=
      isLate_immed _ (by rw [hrec]; exact (by decide : flImmed (flSetImmed FL_IMMED) = true)) _
    simp only [State.watched, hlate, Bool.false_eq_true, if_false, List.append_nil]

end Sys2Proof.Machine
end

section
/-!
PROOF. A step that ends by itself (42_runloop.md R152, R165 5e, R166, R169, R177): an intermediate entry rescheduled under the
watchdog, and a sleep ended by an event; in both finish() answers or starts the next step.
-/

namespace Sys2Proof.Machine

/-! ## finish() as one state -/

/-- What finish() leaves at s: the step's answer, or the next step up to its sleep call. -/
def State.stepEnded (s : State) : State :=
  if s.rlLoop then
    { s.finished with
      irqNest := s.irqNest + 1, rlState := .sleeping, trace := s.finished.trace ++ maskOn s.irqNest ++ [callOf s] }
  else s.finished.emit (.resp 0#64)

theorem finishOp_quiet {s : State} (hq : s.quiet) (hn : s.irqNest ≠ NEST_MAX) : finishOp s = .ok () s.stepEnded := by
  unfold State.stepEnded
  cases hl : s.rlLoop with
  | false => exact finishOp_answers hq hl
  | true =>
    rw [finishOp_loops hq hl, runstepOp_quiet (by exact hq) (by exact hn)]
    rfl

theorem nest_pred {n : BitVec NEST_W} (h0 : n ≠ 0#8) : (n - 1).toNat + 1 = n.toNat := by
  have hpos : n.toNat ≠ 0 := fun hc => h0 (BitVec.eq_of_toNat_eq hc)
  have hlt : n.toNat < 256 := n.isLt
  have hsub : (n - 1).toNat = (256 - 1 + n.toNat) % 256 := BitVec.toNat_sub n 1
  omega

theorem served_stores {s : State} (h : StoreInv s) : StoreInv (served s) := by
  rw [served, rirq_eq]
  exact stores_congr rfl rfl (schedule_stores (s := { s with irqNest := 0#8, trace := s.trace ++ [.irqMask false] }) h ..)

/-! ## An intermediate entry at the head (R152, R165 5e) -/

section
variable {s : State} {h : JobId}

/-- The job scheduled from a queue it is not in: its place, its record, and the counter as before for an APPROX entry. -/
theorem xstepAt_of_not_mem (hst : StoreInv s) (hmem : h ∉ s.q) {c : Tick × CbId × FlagSet}
    (hc : xstepChoice s.xtime (s.job h).xdl (s.job h).xcb = c) :
    (s.xstepAt h).job h = scheduledRec s.tick c.1 c.2.1 c.2.2 (s.job h)
      ∧ (s.xstepAt h).q = insertBefore s.dlOf h (normalise s.tick c.1 c.2.2).1 s.q
      ∧ (∀ k, k ≠ h → (s.xstepAt h).job k = s.job k)
      ∧ s.xstepAt h = { s with q := (s.xstepAt h).q, jobs := (s.xstepAt h).jobs } := by
  subst hc
  refine ⟨schedule_job_self hst.2 .., ?_, fun k hk => schedule_job_other _ _ _ _ _ hk, ?_⟩
  · rw [State.xstepAt, schedule_q, filter_ne_of_not_mem hmem]
  · have hcount : (s.xstepAt h).exactCnt = s.exactCnt := by
      rw [State.xstepAt, schedule_exactCnt, if_pos (xstepChoice_flags _ _ _).1, unlink_of_not_mem hmem]
    conv_lhs => rw [State.xstepAt, schedule_frame]
    rw [State.xstepAt] at hcount
    rw [hcount]
    rfl

/-- XSTEP under the armed watchdog, and the end of the step. -/
theorem invoke_xstep_quiet (hq : s.quiet) (hn : s.irqNest.toNat + 2 ≤ NEST_MAX.toNat) (hi : s.irqSettled) (hf : s.fault = false)
    (p : Params) (j : JobId) :
    invoke p j CB_XSTEP s
      = .ok () (State.stepEnded { s.xstepAt j with trace := s.trace ++ maskPair s.irqNest }) := by
  have hxq : (s.xstepAt j).quiet := by simpa [State.xstepAt, State.quiet] using hq
  have hnest : (s.xstepAt j).irqNest = s.irqNest := by simp [State.xstepAt]
  rw [invoke_xstep, bind_ok (xstepOp_quiet hq hn hi hf j), tau_bind_quiet (by exact hxq)]
  exact finishOp_quiet (by exact hxq) (by exact hnest ▸ (nest_two_below hn).1)

/-- Steps 5c and 5d: the watchdog armed for job j. -/
def State.armedFor (j : JobId) (s : State) : State := { s with wdArmed := true, curJob := j, trace := s.trace ++ [.wdArm] }

/-- An APPROX entry is never late (R172). -/
theorem watched_approx {p : Params} (hfl : (s.job h).fl = FL_APPROX) : s.watched p h = s.armedFor h := by
  have hlate : isLate p (s.job h) s.tick = false := by
    rw [isLate, hfl]
    rfl
  simp only [State.watched, State.armedFor, hlate, Bool.false_eq_true, if_false, List.append_nil]

theorem stepEnded_frame (hwd : s.wdArmed = true) :
    s.stepEnded = { s with
      rlState := if s.rlLoop then .sleeping else .stopped, curJob := NIL, wdArmed := false
      irqNest := if s.rlLoop then s.irqNest + 1 else s.irqNest
      trace := s.trace ++ [.wdDisarm] ++ if s.rlLoop then maskOn s.irqNest ++ [callOf s] else [.resp 0#64] } := by
  unfold State.stepEnded State.finished
  rw [hwd]
  cases s.rlLoop with
  | false => rfl
  | true => simp only [if_true, List.append_assoc]

/-- From the restored state on: the entry rescheduled, the watchdog armed and disarmed, the step ended. -/
theorem dispatchOp_xstep (p : Params) (hq : s.quiet) (hn : s.irqNest.toNat + 2 ≤ NEST_MAX.toNat) (hi : s.irqSettled)
    (hf : s.fault = false) (hst : StoreInv s) (hmem : h ∉ s.q) (hcb : (s.job h).cb = CB_XSTEP) (hfl : (s.job h).fl = FL_APPROX)
    {c : Tick × CbId × FlagSet} (hc : xstepChoice s.xtime (s.job h).xdl (s.job h).xcb = c) :
    ∃ t, dispatchOp p h s = .ok () t
      ∧ t.job h = scheduledRec s.tick c.1 c.2.1 c.2.2 (s.job h)
      ∧ t.q = insertBefore s.dlOf h (normalise s.tick c.1 c.2.2).1 s.q
      ∧ (∀ k, k ≠ h → t.job k = s.job k)
      ∧ t.trace = s.trace ++ [.wdArm] ++ maskPair s.irqNest ++ [.wdDisarm]
          ++ (if s.rlLoop then maskOn s.irqNest ++ [callOf t] else [.resp 0#64])
      ∧ t = { s with
          rlState := if s.rlLoop then .sleeping else .stopped, curJob := NIL, wdArmed := false
          irqNest := if s.rlLoop then s.irqNest + 1 else s.irqNest, q := t.q, jobs := t.jobs, trace := t.trace } := by
  have hrun := invoke_xstep_quiet (s := s.armedFor h) hq hn hi hf p h
  obtain ⟨hself, hqueue, hother, hframe⟩ := xstepAt_of_not_mem (s := s.armedFor h) hst hmem hc
  rw [← watched_approx (p := p) hfl, ← dispatchOp_quiet hq p hcb, watched_approx hfl,
    stepEnded_frame (by simp [State.xstepAt, State.armedFor]), hframe] at hrun
  exact ⟨_, hrun, hself, hqueue, hother, rfl, rfl⟩

end

/-- Settles O30: the entry leaves the queue, interrupts come back, and XSTEP puts it back where its distance calls for. -/
theorem sleepReachedRunsXstep : Obligations.SleepReachedRunsXstep := by
  intro s ts h rest hts hfree hrl hq hQ hnd hst hdue h0 hmax hcb hfl
  have hpred := nest_pred h0
  have hlt : s.irqNest.toNat < 255 := by
    have hle : s.irqNest.toNat < 256 := s.irqNest.isLt
    have hne : s.irqNest.toNat ≠ 255 := fun hc => hmax (BitVec.eq_of_toNat_eq hc)
    omega
  have hbelow : (s.irqNest - 1).toNat + 2 ≤ NEST_MAX.toNat := by
    rw [show NEST_MAX.toNat = 255 from rfl]
    omega
  have hmem : h ∉ rest := (List.nodup_cons.mp (hQ ▸ hnd)).1
  have hoff : flIrqOff (s.job h).fl = false := by
    rw [hfl]
    rfl
  have hcount : (if flApprox (s.job h).fl then s.exactCnt else s.exactCnt - 1) = s.exactCnt := by
    rw [hfl]
    rfl
  rw [step_reached hfree hrl hts hQ hdue]
  constructor
  · intro hs
    have hback := restoreUnlessOff_kept (s := dequeued s ts h rest) h0 hs
    simp only [show flIrqOff (State.job (dequeued s ts h rest) h).fl = false from hoff, Bool.false_eq_true, if_false] at hback
    have hi : State.irqSettled { dequeued s ts h rest with
        irqNest := s.irqNest - 1, trace := s.trace ++ maskOff s.irqNest } :=
      fun _ hc => hs ⟨hc.1, (nest_pred_eq_zero _).mp hc.2, hoff⟩
    obtain ⟨t, hrun, hself, hqueue, hother, htr, hframe⟩ := dispatchOp_xstep Config.params (s := { dequeued s ts h rest with
        irqNest := s.irqNest - 1, trace := s.trace ++ maskOff s.irqNest }) (h := h) hq hbelow hi hfree.1 hst hmem hcb hfl rfl
    refine ⟨t, congrArg Host.Outcome.next (runOp_ok ((sleepReached_restores _ hq hQ hnd hback hq).trans hrun)),
      hself, hqueue, hother, htr, hframe.trans ?_⟩
    simp only [dequeued, hcount, BitVec.sub_add_cancel]
  · intro hs hne
    have huq : (served (dequeued s ts h rest)).quiet := served_quiet (by exact hq)
    have hjob : (served (dequeued s ts h rest)).job h = s.job h := served_job_other _ hne
    have htime : (served (dequeued s ts h rest)).xtime = s.xtime := by simp [served, dequeued]
    have hloop : (served (dequeued s ts h rest)).rlLoop = s.rlLoop := by simp [served, dequeued]
    have hnest : (served (dequeued s ts h rest)).irqNest = 0#8 := by simp [served]
    obtain ⟨t, hrun, hself, hqueue, hother, htr, hframe⟩ := dispatchOp_xstep Config.params
      (s := served (dequeued s ts h rest)) (h := h) huq (by rw [hnest]; decide)
      (fun _ hc => by simp [served] at hc) (by simpa [served, dequeued] using hfree.1)
      (served_stores (by exact hst)) (by rw [mem_served]; exact not_or.mpr ⟨hne, hmem⟩)
      (by rw [hjob]; exact hcb) (by rw [hjob]; exact hfl) rfl
    have htick : (served (dequeued s ts h rest)).tick = s.tick := congrArg xt2tick htime
    rw [hjob, htime, htick] at hself
    rw [hjob, htime, htick] at hqueue
    rw [hnest] at htr hframe
    refine ⟨t, congrArg Host.Outcome.next (runOp_ok ((sleepReached_restores _ hq hQ hnd
      (restoreUnlessOff_serves (s := dequeued s ts h rest) hfree.1 hs) huq).trans hrun)), hself, hqueue, hother, ?_, ?_⟩
    · rw [htr, hloop]
      simp [maskPair, maskOn]
    · rw [← hloop]
      exact hframe

/-! ## A sleep ended by an event (R166, R169) -/

theorem sleepInterrupted_quiet {s t : State} (hq : s.quiet) (he : irqEnable { s with rlState := .stopped } = .ok () t)
    (ht : t.quiet) (hn : t.irqNest ≠ NEST_MAX) : sleepInterrupted s = .ok () t.stepEnded := by
  unfold sleepInterrupted
  rw [upd_bind, tau_bind_quiet (by exact hq), bind_ok he, tau_bind_quiet ht, finishOp_quiet ht hn]

/-- A step that ends with the watchdog disarmed and RL_STATE at rest already. -/
theorem stepEnded_rest {s : State} (hwd : s.wdArmed = false) (hrl : s.rlState = .stopped) :
    s.stepEnded = if s.rlLoop then
        { s with
          curJob := NIL, irqNest := s.irqNest + 1, rlState := .sleeping, trace := s.trace ++ maskOn s.irqNest ++ [callOf s] }
      else { s with curJob := NIL, trace := s.trace ++ [.resp 0#64] } := by
  have hfin : s.finished = { s with curJob := NIL } := by
    obtain ⟨⟩ := s
    simp_all [State.finished]
  unfold State.stepEnded
  rw [hfin]
  cases s.rlLoop <;> rfl

/-- The enable after the event, with nothing to serve: the step ends where its lines say. -/
theorem interrupted_kept {s : State} (hq : s.quiet) (hn : s.irqNest ≠ 0#8) (hp : ¬(s.irqPend = true ∧ s.irqNest = 1#8))
    (hwd : s.wdArmed = false) :
    sleepInterrupted s = .ok () (if s.rlLoop then
        { s with
          curJob := NIL, rlState := .sleeping
          trace := s.trace ++ maskOff s.irqNest ++ maskOn (s.irqNest - 1) ++ [callOf s] }
      else
        { s with
          curJob := NIL, rlState := .stopped, irqNest := s.irqNest - 1
          trace := s.trace ++ maskOff s.irqNest ++ [.resp 0#64] }) := by
  have hpred := nest_pred hn
  have hmax : s.irqNest - 1 ≠ NEST_MAX := fun hc => by
    have hlt : s.irqNest.toNat < 256 := s.irqNest.isLt
    rw [hc, show NEST_MAX.toNat = 255 from rfl] at hpred
    omega
  have henable := irqEnable_ok (s := { s with rlState := .stopped }) hn fun hc => hp ⟨hc.2.1, hc.1⟩
  refine (sleepInterrupted_quiet hq henable hq hmax).trans (congrArg _ ((stepEnded_rest (by exact hwd) rfl).trans ?_))
  dsimp only
  rw [BitVec.sub_add_cancel]
  rfl

theorem served_rlState (s : State) (rl : RlState) : served { s with rlState := rl } = { served s with rlState := rl } := by
  unfold served State.rirq State.schedule State.countExact State.enqueue State.writeJob State.setJob State.unlink State.queued
    State.job State.emit
  dsimp only
  split <;> rfl

/-- The enable after the event, with an interrupt pending: RIRQ has run when the step ends (R283 b). -/
theorem interrupted_serves {s : State} (hq : s.quiet) (hn : s.irqNest = 1#8) (hp : s.irqPend = true) (hf : s.fault = false)
    (hwd : s.wdArmed = false) :
    sleepInterrupted s = .ok () (if s.rlLoop then
        { served s with
          curJob := NIL, rlState := .sleeping, irqNest := 1#8
          trace := (served s).trace ++ [.irqMask true, callOf (served s)] }
      else { served s with curJob := NIL, rlState := .stopped, trace := (served s).trace ++ [.resp 0#64] }) := by
  have henable : irqEnable { s with rlState := .stopped } = .ok () { served s with rlState := .stopped } :=
    (irqEnable_serves (s := { s with rlState := .stopped }) hn hp hf).trans (congrArg _ (served_rlState s .stopped))
  have hnest : (served s).irqNest = 0#8 := by simp [served]
  have hloop : (served s).rlLoop = s.rlLoop := by simp [served]
  refine (sleepInterrupted_quiet hq henable (served_quiet hq) (by rw [hnest]; decide)).trans
    (congrArg _ ((stepEnded_rest (by simpa [served] using hwd) rfl).trans ?_))
  dsimp only
  rw [hloop, hnest, List.append_assoc]
  rfl

section
variable {s : State} {ts : List Turn} (hts : s.turns = .sleepReturns .interrupted :: ts) (hfree : s.seqFree)
  (hrl : s.rlState = .sleeping) (hq : s.quiet) (hwd : s.wdArmed = false)
include hts hfree hrl hq hwd

theorem step_interrupted_kept (hn : s.irqNest ≠ 0#8) (hp : ¬(s.irqPend = true ∧ s.irqNest = 1#8)) :
    step s = .next (if s.rlLoop then
        { s with
          turns := ts, curJob := NIL, rlState := .sleeping
          trace := s.trace ++ maskOff s.irqNest ++ maskOn (s.irqNest - 1) ++ [callOf s] }
      else
        { s with
          turns := ts, curJob := NIL, rlState := .stopped, irqNest := s.irqNest - 1
          trace := s.trace ++ maskOff s.irqNest ++ [.resp 0#64] }) :=
  (step_interrupted hfree hrl hts).trans
    (congrArg Host.Outcome.next (runOp_ok (interrupted_kept (s := { s with turns := ts }) hq hn hp hwd)))

theorem step_interrupted_serves (hn : s.irqNest = 1#8) (hp : s.irqPend = true) :
    let v := served { s with turns := ts }
    step s = .next (if s.rlLoop then
        { v with
          curJob := NIL, rlState := .sleeping, irqNest := 1#8, trace := v.trace ++ [.irqMask true, callOf v] }
      else { v with curJob := NIL, rlState := .stopped, trace := v.trace ++ [.resp 0#64] }) :=
  (step_interrupted hfree hrl hts).trans
    (congrArg Host.Outcome.next (runOp_ok (interrupted_serves (s := { s with turns := ts }) hq hn hp hfree.1 hwd)))

end

/-- Settles O32: the event undoes the step but for CUR_JOB and the trace, or serves the interrupt, which only adds RJOB. -/
theorem interruptedStepLosesNothing : Obligations.InterruptedStepLosesNothing := by
  refine ⟨fun s u ts b ha hq hmax hwd hu => ?_, fun s ts hts hfree hrl hl hq h0 hwd => ⟨fun hp => ?_, fun hp h1 => ?_⟩⟩
  · obtain ⟨hrl, hl⟩ := accepted_runner ha
    have hfree := accepted_free ha
    obtain rfl : _ = u := Host.Outcome.next.inj ((runstepEntersSleep s ha hq hmax).1.symm.trans hu)
    by_cases hb : b = true ∧ s.irqNest = 0#8
    · obtain ⟨rfl, hz⟩ := hb
      refine ⟨_, step_interrupted_serves rfl (by exact hfree) rfl (by exact hq) (by exact hwd)
        (by exact (nest_succ_eq_one _).mpr hz) rfl, fun h => ?_, fun _ _ => ?_⟩
      · exact absurd (h.resolve_left (by decide)) (not_not_intro hz)
      · have hserved : served { s with
              irqNest := s.irqNest + 1, rlState := .sleeping, trace := s.trace ++ maskOn s.irqNest ++ [callOf s]
              irqPend := true, turns := ts }
            = { served { s with
                turns := ts, irqPend := true, trace := s.trace ++ maskOn s.irqNest ++ [callOf s] } with rlState := .sleeping } :=
          served_rlState { s with
            turns := ts, irqPend := true, trace := s.trace ++ maskOn s.irqNest ++ [callOf s] } .sleeping
        have hvl : (served { s with
            turns := ts, irqPend := true, trace := s.trace ++ maskOn s.irqNest ++ [callOf s] }).rlState = .stopped := by
          simpa [served] using hrl
        rw [if_neg (by simp [hl]), hserved, ← hvl]
        exact ⟨rfl, (mem_served _).mpr (.inl rfl), fun j hj => (mem_served _).mpr (.inr hj)⟩
    · refine ⟨_, step_interrupted_kept rfl (by exact hfree) rfl (by exact hq) (by exact hwd) (by exact nest_succ_ne_zero hmax)
        (fun hc => hb ⟨hc.1, (nest_succ_eq_one _).mp hc.2⟩), fun _ => ?_, fun h h' => absurd ⟨h, h'⟩ hb⟩
      rw [if_neg (by simp [hl]), ← hrl]
      dsimp only
      rw [BitVec.add_sub_cancel]
      exact ⟨rfl, rfl⟩
  · rw [step_interrupted_kept hts hfree hrl hq hwd h0 hp, if_pos hl, ← hrl]
  · have hvl : (served { s with turns := ts }).rlState = .sleeping := by simpa [served] using hrl
    refine ⟨?_, (mem_served _).mpr (.inl rfl), fun j hj => (mem_served _).mpr (.inr hj)⟩
    rw [step_interrupted_serves hts hfree hrl hq hwd h1 hp, if_pos hl, ← hvl]

end Sys2Proof.Machine
end

section
/-!
PROOF. The radio driver's lines in an undisturbed state whose busy line clears (44_radio.md R218, R219): what each makes of
the state but for what frames consume, and what it shows; configure(dir) as a whole.
-/

namespace Sys2Proof.Machine

/-! ## A stretch of lines as a change of the core -/

/-- How many bytes go over the bus, and so how many CHIP answers. -/
def Shown.bytes : Shown → Nat
  | .frame b => b.length
  | .out _ => 0

def shownBytes (xs : List Shown) : Nat := (xs.map Shown.bytes).sum

theorem shownBytes_append (xs ys : List Shown) : shownBytes (xs ++ ys) = shownBytes xs + shownBytes ys := by
  simp [shownBytes]

/-- Undisturbed from any state with core c the lines end with core d, having shown this and consumed CHIP's answers to it. -/
def Lines (m : Op Unit) (c d : State) (xs : List Shown) : Prop :=
  ∀ s : State, s.quiet → s.busyClears → s.core = c →
    ∃ t, Ran m s () t xs ∧ t.core = d ∧ t.chipIn = s.chipIn.drop (shownBytes xs)

theorem Lines.seq {m : Op Unit} {g : Unit → Op Unit} {c d e : State} {xs ys : List Shown} (h : Lines m c d xs)
    (h' : Lines (g ()) d e ys) : Lines (m >>= g) c e (xs ++ ys) := by
  intro s hq hb hc
  obtain ⟨t, ht, hd, hin⟩ := h s hq hb hc
  obtain ⟨u, hu, he, hin'⟩ := h' t ht.quiet ht.clears hd
  exact ⟨u, ran_bind ht hu, he, by rw [hin', hin, List.drop_drop, shownBytes_append]⟩

theorem Lines.afterTau {g : Unit → Op Unit} {c d : State} {xs : List Shown} (h : Lines (g ()) c d xs) :
    Lines (tau >>= g) c d xs := by
  intro s hq hb hc
  obtain ⟨t, ht, hd, hin⟩ := h s hq hb hc
  exact ⟨t, ran_tau hq ht, hd, hin⟩

/-- A line, an interaction point, and the lines after it. -/
theorem Lines.line {m : Op Unit} {g : Unit → Op Unit} {c d e : State} {xs ys : List Shown} (h : Lines m c d xs)
    (h' : Lines (g ()) d e ys) : Lines (m >>= fun _ => tau >>= g) c e (xs ++ ys) :=
  h.seq h'.afterTau

theorem Lines.cast {m : Op Unit} {c d : State} {xs ys : List Shown} (h : Lines m c d xs) (hx : xs = ys) : Lines m c d ys :=
  hx ▸ h

theorem Lines.castCore {m : Op Unit} {c d e : State} {xs : List Shown} (h : Lines m c d xs) (hd : d = e) : Lines m c e xs :=
  hd ▸ h

/-- A line that issues no frame. -/
theorem lines_of_update {m : Op Unit} {c d : State} {xs : List Shown} (f : State → State) 
    (hm : ∀ s : State, s.quiet → s.core = c → m s = .ok () (f s))
    (hshow : ∀ s, s.core = c → Shows s (f s) xs) (hx : ¬HasFrame xs) (hcore : ∀ s, s.core = c → (f s).core = d)
    (hbus : ∀ s, (f s).moments = s.moments ∧ (f s).busyIn = s.busyIn ∧ (f s).chipIn = s.chipIn ∧ (f s).rsleep = s.rsleep
      ∧ (f s).cs = s.cs) : Lines m c d xs := by
  intro s hq hb hc
  obtain ⟨hmo, hbu, hch, hrs, hcs⟩ := hbus s
  refine ⟨f s, ⟨hm s hq hc, hshow s hc, hmo.trans hq, ?_, ⟨fun h => hrs.trans h, fun h => absurd h hx⟩,
    ⟨fun h => hcs.trans h, fun h => absurd h hx⟩⟩, hcore s hc, ?_⟩
  · unfold State.busyClears
    rw [hbu]
    exact hb
  · have hnone : shownBytes xs = 0 := by
      refine List.sum_eq_zero fun n hn => ?_
      obtain ⟨x, hxs, rfl⟩ := List.mem_map.mp hn
      cases x with
      | frame b => exact absurd ⟨b, hxs⟩ hx
      | out e => rfl
    rw [hnone, hch, List.drop_zero]

/-! ## Single lines -/

theorem frameDone_chipIn (op : Byte) (out : List Byte) (st : Bool) (nin n : Nat) (s : State) :
    (frameDone op out st nin n s).chipIn = s.chipIn.drop (frameOut op out st nin).length := by
  rw [frameDone_eq]
  unfold State.afterBusy
  cases s.busyIn <;> rfl

/-- One frame that is sent for its effect. -/
theorem lines_frame (c : State) (op : Byte) (out : List Byte) :
    Lines (busFrame op out false 0 >>= fun _ => pure ()) c c [.frame (op :: out)] := by
  intro s hq hb hc
  obtain ⟨n, hn⟩ := busyClears_now hb
  have hout : frameOut op out false 0 = op :: out := by simp [frameOut]
  refine ⟨frameDone op out false 0 n s, ⟨bind_ok (busFrame_quiet hq hn ..), shows_frame (n := n) ?_, frameDone_quiet hq ..,
    frameDone_clears hb op out false 0 n, ⟨fun _ => rfl, fun _ => rfl⟩, ⟨fun _ => rfl, fun _ => rfl⟩⟩, ?_, ?_⟩
  · rw [← hout]
    rfl
  · rw [frameDone_core, hc]
  · rw [frameDone_chipIn, hout]
    rfl

theorem lines_bcmd (c : State) (op : Byte) (out : List Byte) : Lines (bcmdOp op out) c c [.frame (op :: out)] :=
  lines_frame c op out

theorem lines_wreg (c : State) (p : Params) (addr : ChipAddr) (v : List Byte) :
    Lines (wreg p addr v) c c [.frame (p.opc .wreg :: (addrBytes addr ++ v))] :=
  lines_frame c _ _

theorem lines_pure (c : State) : Lines (pure ()) c c [] :=
  lines_of_update id (fun _ _ _ => rfl) (fun _ _ => shows_same rfl) (by simp [HasFrame]) (fun _ h => h)
    fun _ => ⟨rfl, rfl, rfl, rfl, rfl⟩

/-- A line that writes what the core holds and shows nothing. -/
theorem lines_upd {c d : State} (f : State → State) (hcore : ∀ s, s.core = c → (f s).core = d)
    (hbus : ∀ s, (f s).moments = s.moments ∧ (f s).busyIn = s.busyIn ∧ (f s).chipIn = s.chipIn ∧ (f s).rsleep = s.rsleep
      ∧ (f s).cs = s.cs) (ht : ∀ s, (f s).trace = s.trace) : Lines (upd f) c d [] :=
  lines_of_update f (fun _ _ _ => rfl) (fun s _ => shows_same (ht s)) (by simp [HasFrame]) hcore hbus

/-- A line that shows one event. -/
theorem lines_event {c d : State} (f : State → State) {e : Event} (hcore : ∀ s, s.core = c → (f s).core = d)
    (hbus : ∀ s, (f s).moments = s.moments ∧ (f s).busyIn = s.busyIn ∧ (f s).chipIn = s.chipIn ∧ (f s).rsleep = s.rsleep
      ∧ (f s).cs = s.cs) (ht : ∀ s, (f s).trace = s.trace ++ [e]) : Lines (upd f) c d [.out e] :=
  lines_of_update f (fun _ _ _ => rfl) (fun s _ => shows_event (ht s)) (by simp [HasFrame]) hcore hbus

theorem lines_emit (c : State) (e : Event) : Lines (emit e) c c [.out e] :=
  lines_event (fun s => s.emit e) (fun _ h => h) (fun _ => ⟨rfl, rfl, rfl, rfl, rfl⟩) fun _ => rfl

theorem lines_setChipMode (c : State) (m : ChipMode) : Lines (Machine.setChipMode m) c { c with chipMode := m } [] :=
  lines_upd _ (fun _ h => h ▸ rfl) (fun _ => ⟨rfl, rfl, rfl, rfl, rfl⟩) fun _ => rfl

theorem lines_setRadio (c : State) (o : Rop) (m : ChipMode) :
    Lines (Machine.setRadio o m) c { c with rop := o, chipMode := m } [] :=
  lines_upd _ (fun _ h => h ▸ rfl) (fun _ => ⟨rfl, rfl, rfl, rfl, rfl⟩) fun _ => rfl

theorem lines_setAnt (c : State) (v : AntPath) : Lines (Machine.setAnt v) c { c with ant := v } [.out (.pinAnt v)] :=
  lines_event _ (fun _ h => h ▸ rfl) (fun _ => ⟨rfl, rfl, rfl, rfl, rfl⟩) fun _ => rfl

theorem lines_setTcxo (c : State) (v : Bool) : Lines (Machine.setTcxo v) c { c with tcxo := v } [.out (.pinTcxo v)] :=
  lines_event _ (fun _ h => h ▸ rfl) (fun _ => ⟨rfl, rfl, rfl, rfl, rfl⟩) fun _ => rfl

/-- A line that first reads what the core holds. -/
theorem lines_rd {α : Type} {c d : State} {xs : List Shown} {f : State → α} {g : α → Op Unit}
    (hf : ∀ s : State, f s = f s.core) (h : Lines (g (f c)) c d xs) : Lines (rd f >>= g) c d xs := by
  intro s hq hb hc
  obtain ⟨t, ht, hd, hin⟩ := h s hq hb hc
  have hr : f s = f c := (hf s).trans (congrArg f hc)
  exact ⟨t, ⟨by rw [rd_bind, hr]; exact ht.ends, ht.shows, ht.quiet, ht.clears, ht.rsleep, ht.cs⟩, hd, hin⟩

theorem lines_rcfg {c d : State} {xs : List Shown} {g : Rcfg → Op Unit} (h : Lines (g c.rcfg) c d xs) :
    Lines (rd State.rcfg >>= g) c d xs :=
  lines_rd (fun _ => rfl) h

/-! ## configure(dir) (R218, R219) -/

theorem lines_tcxoOn (p : Params) (c : State) :
    Lines (tcxoOn p) c { c with tcxo := tcxoAfter p c } (if p.tcxoPin then [.out (.pinTcxo true)] else []) := by
  unfold tcxoOn tcxoAfter
  cases p.tcxoPin with
  | true => exact lines_setTcxo c true
  | false => exact lines_pure c

theorem lines_auxFrames (c : State) (l : List (Byte × List Byte)) :
    Lines (Machine.auxFrames l) c c (l.map fun f => .frame (f.1 :: f.2)) := by
  induction l with
  | nil => exact lines_pure c
  | cons f rest ih => exact (lines_bcmd c f.1 f.2).line ih

theorem lines_fskRegisters (p : Params) (c : State) :
    Lines (fskRegisters p) c c (match c.rcfg.kind with
      | .lora => []
      | .fsk => [.frame (p.opc .wreg :: (addrBytes p.whiteAddr ++ bytes16 c.rcfg.whiteSeed)),
          .frame (p.opc .wreg :: (addrBytes p.crcSeedAddr ++ bytes16 c.rcfg.crcSeed)),
          .frame (p.opc .wreg :: (addrBytes p.crcPolyAddr ++ bytes16 c.rcfg.crcPoly))]) := by
  refine lines_rcfg ?_
  cases hk : c.rcfg.kind with
  | lora => exact lines_pure c
  | fsk => exact (lines_wreg c p _ _).line ((lines_wreg c p _ _).line (lines_wreg c p _ _))

theorem lines_configure (p : Params) (dir : Dir) (c : State) :
    Lines (Machine.configure p dir) c { c with chipMode := .standby, tcxo := tcxoAfter p c } (configureShown p c.rcfg dir) := by
  unfold Machine.configure
  refine Lines.cast ((lines_bcmd c (p.opc .standby) [p.stdbyCfg]).seq <| (lines_setChipMode c .standby).line <|
    (lines_bcmd _ (p.opc .regmode) [p.regmode]).line <| (lines_tcxoOn p _).line <|
    (lines_auxFrames _ p.auxFrames).line <|
    (lines_rcfg (lines_bcmd _ (p.opc .pkttype) _)).line <| (lines_rcfg (lines_bcmd _ (p.opc .freq) _)).line <|
    (lines_rcfg (lines_bcmd _ (p.opc .modparams) _)).line <| (lines_rcfg (lines_bcmd _ (p.opc .pktparams) _)).line <|
    (lines_rcfg (lines_wreg _ p _ _)).line <| (lines_fskRegisters p _).line <|
    (lines_bcmd _ (p.opc .clrirq) (irqBytes IRQ_ALL)).line (lines_bcmd _ (p.opc .irqparams) _)) ?_
  simp only [configureShown, List.append_assoc, List.cons_append, List.nil_append]
  rfl

end Sys2Proof.Machine
end

section
/-!
PROOF. The radio commands undisturbed (44_radio.md R218 to R242): the lines of RTX, RRX, RSLEEP and RRAND, assembled from
configure(dir) and the single lines.
-/

namespace Sys2Proof.Machine

/-! ## From lines to a command -/

theorem framesOnly_of_ran {α : Type} {m : Op α} {s t base : State} {a : α} {xs : List Shown} (h : Ran m s a t xs)
    (hx : HasFrame xs) (hc : t.core = base.core) : FramesOnly base t := by
  have ht := eq_of_core t
  rw [hc, h.rsleep.2 hx, h.cs.2 hx] at ht
  exact ht

theorem exec_lines {i : Instr} {m : Op Unit} {s base : State} {xs : List Shown} (hi : commandLines i = some m)
    (ha : s.acceptance (classOf i) = .accepted) (hq : s.quiet) (hb : s.busyClears) (h : Lines m s.core base.core xs)
    (hx : HasFrame xs) : ∃ t, exec i s = .next t ∧ FramesOnly base t ∧ Shows s t xs := by
  obtain ⟨t, ht, hd, -⟩ := h s hq hb rfl
  exact ⟨t, exec_ok hi ha ht.ends, framesOnly_of_ran ht hx hd, ht.shows⟩

theorem hasFrame_of_mem {xs : List Shown} {b : List Byte} (h : .frame b ∈ xs) : HasFrame xs := ⟨b, h⟩

theorem hasFrame_configure (p : Params) (r : Rcfg) (dir : Dir) : HasFrame (configureShown p r dir) := by
  refine hasFrame_of_mem (b := [p.opc .standby, p.stdbyCfg]) ?_
  simp [configureShown]

/-! ## RTX (R224 to R228) -/

theorem clampPower_eq (x : BitVec 8) :
    clampPower Config.params x = max Config.params.pmin (min Config.params.pmax x.toInt) := by
  have hle : Config.params.pmin ≤ Config.params.pmax := by
    have hok := params_ok
    simp only [Params.ok, Bool.and_eq_true, decide_eq_true_eq] at hok
    exact hok.1.1.2
  unfold clampPower
  split
  · omega
  · split <;> omega

theorem lines_loadPayload (p : Params) (c : State) :
    Lines (loadPayload p) c c
      [.frame (p.opc .wbuf :: p.txbufBase :: Memory.readFrom c.frame 0 c.rcfg.datalen.toNat)] :=
  lines_rd (fun _ => rfl) (lines_frame c _ _)

theorem lines_rtx (p : Params) (mode : Bool) (c : State) :
    Lines (rtxOp p mode) c
      { c with rop := if mode then .txcw else .tx, chipMode := .tx, ant := .tx, tcxo := tcxoAfter p c }
      (configureShown p c.rcfg .tx
        ++ (if mode then [] else
            [.frame (p.opc .wbuf :: p.txbufBase :: Memory.readFrom c.frame 0 c.rcfg.datalen.toNat)])
        ++ [.frame (p.opc .txparams :: powBytes p (clampPower p c.rcfg.txpow)), .out (.pinAnt .tx),
            .frame (if mode then [p.opc .txcw] else p.opc .tx :: timeoutBytes p p.txTimeout), .out (.resp 0#64)]) := by
  unfold rtxOp
  cases mode with
  | true =>
    simp only [if_true]
    refine Lines.cast ((lines_configure p .tx c).line <| (lines_pure _).line <|
      (lines_rcfg (lines_bcmd _ (p.opc .txparams) _)).line <| (lines_setAnt _ .tx).line <|
      ((lines_bcmd _ (p.opc .txcw) []).seq (lines_setRadio _ .txcw .tx)).line <| lines_emit _ _) ?_
    simp
  | false =>
    simp only [Bool.false_eq_true, if_false]
    refine Lines.cast ((lines_configure p .tx c).line <| (lines_loadPayload p _).line <|
      (lines_rcfg (lines_bcmd _ (p.opc .txparams) _)).line <| (lines_setAnt _ .tx).line <|
      ((lines_bcmd _ (p.opc .tx) _).seq (lines_setRadio _ .tx .tx)).line <| lines_emit _ _) ?_
    simp

/-- Settles O42: the clamp is the maximum of the minimum, since PMIN <= PMAX; the lines of RTX follow configure(TX). -/
theorem rtxArmsTransmit : Obligations.RtxArmsTransmit := by
  refine ⟨clampPower_eq, fun s mode ha hq hb => ?_⟩
  exact exec_lines rfl ha hq hb (lines_rtx Config.params mode s.core)
    (hasFrame_append.mpr (.inl (hasFrame_append.mpr (.inl (hasFrame_configure ..)))))

/-! ## RRX up to frequency synthesis, and in continuous mode (R230, R231) -/

/-- Lines 1 to 4 of RRX. -/
def rrxSetup (p : Params) (mode : Bool) : Op Unit := do
  Machine.configure p .rx
  tau
  symbolTimeout p mode
  tau
  ccFs p
  Machine.setChipMode .fs

theorem rrxOp_eq (p : Params) (mode : Bool) :
    rrxOp p mode = rrxSetup p mode >>= fun _ => tau >>= fun _ =>
      (if mode then armContinuous p else Machine.armSingle p) >>= fun _ => tau >>= fun _ => emit (.resp 0#64) := by
  simp only [rrxOp, rrxSetup, bind_assoc]

/-- What single-shot RRX sends for LORA before frequency synthesis (R230). -/
def symtoShown (p : Params) (r : Rcfg) : List Shown :=
  match r.kind with
  | .lora => [.frame (p.opc .wreg :: (addrBytes p.symtoAddr ++ symtoBytes p r.rxsyms))]
  | .fsk => []

theorem lines_symbolTimeout (p : Params) (mode : Bool) (c : State) :
    Lines (symbolTimeout p mode) c c (if mode then [] else symtoShown p c.rcfg) := by
  refine lines_rcfg ?_
  unfold symtoShown
  cases mode with
  | true => exact lines_pure c
  | false =>
    cases hk : c.rcfg.kind with
    | lora => exact lines_wreg c p _ _
    | fsk => exact lines_pure c

theorem lines_rrxSetup (p : Params) (mode : Bool) (c : State) :
    Lines (rrxSetup p mode) c { c with chipMode := .fs, tcxo := tcxoAfter p c }
      (configureShown p c.rcfg .rx ++ (if mode then [] else symtoShown p c.rcfg) ++ [.frame [p.opc .fs]]) := by
  unfold rrxSetup
  refine Lines.cast ((lines_configure p .rx c).line <| (lines_symbolTimeout p mode _).line <|
    (lines_bcmd _ (p.opc .fs) []).seq (lines_setChipMode _ .fs)) ?_
  simp

/-- Settles O43: the setup without a symbol timeout, then the continuous lines. -/
theorem rrxArmsContinuous : Obligations.RrxArmsContinuous := by
  intro s ha hq hb
  refine exec_lines rfl ha hq hb ?_ (hasFrame_append.mpr (.inl (hasFrame_configure ..)))
  rw [rrxOp_eq]
  refine Lines.cast ((lines_rrxSetup Config.params true s.core).line <| ((lines_setAnt _ .rx).line <|
    (lines_bcmd _ (Config.params.opc .rx) _).seq (lines_setRadio _ .rxc .rx)).line <| lines_emit _ _) ?_
  simp
  rfl

/-! ## RRX in single-shot mode (R232 to R234) -/

theorem xt2tick_add (x : XTime) (n : Nat) : xt2tick (x + BitVec.ofNat XT_W n) = xt2tick x + BitVec.ofNat TICK_W n := by
  have h32 : TICK_W ≤ XT_W := by decide
  unfold xt2tick
  rw [BitVec.setWidth_add _ _ h32, BitVec.setWidth_ofNat_of_le h32]

/-- The wait ends at a due tick. -/
theorem due_dueTime (d : Tick) (x : XTime) : due d (xt2tick (dueTime d x)) = true := by
  unfold dueTime
  split
  case isTrue h => exact h
  case isFalse h =>
    have hpos : 0 < sdiff d (xt2tick x) := by simpa [due] using h
    have hgap : BitVec.ofNat TICK_W (sdiff d (xt2tick x)).toNat = d - xt2tick x := by
      rw [← ofInt_sdiff, ← BitVec.ofInt_natCast, Int.toNat_of_nonneg hpos.le]
    rw [xt2tick_add, hgap, add_sub_cancel]
    exact due_self d

theorem shows_events {s t : State} (ev : List Event) (h : t.trace = s.trace ++ ev) : Shows s t (ev.map .out) := by
  refine ⟨ev, h, ?_⟩
  clear h
  induction ev with
  | nil => rfl
  | cons e rest ih => exact ⟨rest, rfl, ih⟩

theorem not_hasFrame_out (ev : List Event) : ¬HasFrame (ev.map .out) := by
  simp [HasFrame]

theorem lines_disable {c : State} (h : c.irqNest ≠ NEST_MAX) :
    Lines irqDisable c { c with irqNest := c.irqNest + 1 } ((maskOn c.irqNest).map .out) := by
  refine lines_of_update (fun s => { s with irqNest := s.irqNest + 1, trace := s.trace ++ maskOn s.irqNest })
    (fun s _ hc => irqDisable_quiet (by subst hc; exact h)) (fun s hc => shows_events _ (by subst hc; rfl)) (not_hasFrame_out _)
    (fun s hc => by subst hc; rfl) fun _ => ⟨rfl, rfl, rfl, rfl, rfl⟩

theorem lines_enable {c : State} (h : c.irqNest ≠ 0#8) (hp : ¬(c.irqPend = true ∧ c.irqNest = 1#8)) :
    Lines irqEnable c { c with irqNest := c.irqNest - 1 } ((maskOff c.irqNest).map .out) := by
  refine lines_of_update (fun s => { s with irqNest := s.irqNest - 1, trace := s.trace ++ maskOff s.irqNest })
    (fun s _ hc => irqEnable_ok (by subst hc; exact h) (by subst hc; exact fun hx => hp ⟨hx.2.1, hx.1⟩))
    (fun s hc => shows_events _ (by subst hc; rfl)) (not_hasFrame_out _)
    (fun s hc => by subst hc; rfl) fun _ => ⟨rfl, rfl, rfl, rfl, rfl⟩

/-- The warning of a start time already past (R234). -/
def timingWarning (c : State) : List Event := if sdiff c.rcfg.rxtime c.tick < 0 then [.warn WARN_TIMING] else []

theorem lines_timingCheck (c : State) : Lines Machine.timingCheck c c ((timingWarning c).map .out) := by
  refine lines_of_update (fun s => { s with trace := s.trace ++ timingWarning s })
    (fun s _ _ => ?_) (fun s hc => shows_events _ (by subst hc; rfl)) (not_hasFrame_out _)
    (fun s hc => by subst hc; rfl) fun _ => ⟨rfl, rfl, rfl, rfl, rfl⟩
  unfold Machine.timingCheck timingWarning
  rw [readTick_bind, rd_bind]
  split
  · rfl
  · rw [List.append_nil]
    rfl

theorem lines_waitDue (c : State) (d : Tick) : Lines (waitDue d) c { c with xtime := dueTime d c.xtime } [] :=
  lines_of_update (fun s => { s with xtime := dueTime d s.xtime }) (fun _ hq _ => waitDue_quiet hq d)
    (fun _ _ => shows_same rfl) (by simp [HasFrame]) (fun s hc => by subst hc; rfl) fun _ => ⟨rfl, rfl, rfl, rfl, rfl⟩

theorem lines_armSingle (p : Params) {c : State} (hn : c.irqNest ≠ NEST_MAX) (hi : ¬(c.irqPend = true ∧ c.irqNest = 0#8)) :
    Lines (Machine.armSingle p) c
      { c with rop := .rxs, chipMode := .rx, ant := .rx, xtime := dueTime c.rcfg.rxtime c.xtime }
      ((maskOn c.irqNest).map .out ++ (timingWarning c).map .out
        ++ [.out (.pinAnt .rx), .frame (p.opc .rx :: timeoutBytes p (rxWindow p c.rcfg))]
        ++ (maskOff (c.irqNest + 1)).map .out) := by
  unfold Machine.armSingle
  refine Lines.castCore (Lines.cast ((lines_disable hn).line <| (lines_timingCheck _).line <| lines_rcfg <|
    (lines_waitDue _ _).seq <| (lines_setAnt _ .rx).line <| (lines_bcmd _ (p.opc .rx) _).line <|
    (lines_setRadio _ .rxs .rx).line <| lines_enable (nest_succ_ne_zero hn)
      fun hc => hi ⟨hc.1, (nest_succ_eq_one _).mp hc.2⟩) ?_) ?_
  · simp only [List.append_assoc, List.nil_append, List.cons_append]
    rfl
  · dsimp only
    rw [BitVec.add_sub_cancel]

theorem shown_maskOn (n : BitVec NEST_W) : (maskOn n).map Shown.out = if n = 0#8 then [.out (.irqMask true)] else [] := by
  unfold maskOn
  split <;> rfl

theorem shown_maskOff_succ (n : BitVec NEST_W) :
    (maskOff (n + 1)).map Shown.out = if n = 0#8 then [.out (.irqMask false)] else [] := by
  unfold maskOff
  simp only [nest_succ_eq_one]
  split <;> rfl

theorem shown_timingWarning (c : State) :
    (timingWarning c).map Shown.out = if sdiff c.rcfg.rxtime c.tick < 0 then [.out (.warn 0x01#8)] else [] := by
  unfold timingWarning
  split <;> rfl

theorem lines_rrxSingle (p : Params) {c : State} (hn : c.irqNest ≠ NEST_MAX) (hi : ¬(c.irqPend = true ∧ c.irqNest = 0#8)) :
    Lines (rrxOp p false) c
      { c with
        rop := .rxs, chipMode := .rx, ant := .rx, tcxo := tcxoAfter p c, xtime := dueTime c.rcfg.rxtime c.xtime }
      (configureShown p c.rcfg .rx ++ symtoShown p c.rcfg ++ [.frame [p.opc .fs]]
        ++ (if c.irqNest = 0#8 then [.out (.irqMask true)] else [])
        ++ (if sdiff c.rcfg.rxtime c.tick < 0 then [.out (.warn 0x01#8)] else [])
        ++ [.out (.pinAnt .rx), .frame (p.opc .rx :: timeoutBytes p (rxWindow p c.rcfg))]
        ++ (if c.irqNest = 0#8 then [.out (.irqMask false)] else [])
        ++ [.out (.resp 0#64)]) := by
  rw [rrxOp_eq, ← shown_maskOn, ← shown_maskOff_succ, ← shown_timingWarning]
  refine Lines.cast ((lines_rrxSetup p false c).line <| (lines_armSingle p (by exact hn) (by exact hi)).line <|
    lines_emit _ (.resp 0#64)) ?_
  simp only [List.append_assoc]
  rfl

/-- Settles O44: the setup, then the wait between the mask pair. -/
theorem rrxArmsSingle : Obligations.RrxArmsSingle := by
  intro s ha hq hb hn hi
  obtain ⟨t, hexec, hframes, hshow⟩ := exec_lines (i := .rrx false) (base := { s with
      rop := .rxs, chipMode := .rx, ant := .rx, tcxo := tcxoAfter Config.params s
      xtime := dueTime s.rcfg.rxtime s.xtime }) rfl ha hq hb
    (lines_rrxSingle Config.params (c := s.core) hn (hi (accepted_free ha).1))
    (by simp only [hasFrame_append, hasFrame_configure, true_or])
  refine ⟨t, hexec, hframes, ?_, hshow⟩
  rw [State.tick, hframes]
  exact due_dueTime ..

end Sys2Proof.Machine
end

section
/-!
PROOF. The nesting limits of every operation (42_runloop.md R180, R181), and RSLEEP and RRAND undisturbed (44_radio.md R240 to
R242).
-/

namespace Sys2Proof.Machine

/-! ## The nesting limits (R180, R181, D16) -/

/-- Single-shot RRX has issued its frames up to frequency synthesis when its disable faults. -/
theorem rrxSingle_limit {s : State} (ha : s.acceptance .plain = .accepted) (hq : s.quiet) (hb : s.busyClears)
    (h : s.irqNest = NEST_MAX) :
    ∃ u, exec (.rrx false) s = .next (u.hardFault .assertion)
      ∧ FramesOnly { s with chipMode := .fs, tcxo := tcxoAfter Config.params s } u
      ∧ Shows s u (configureShown Config.params s.rcfg .rx ++ symtoShown Config.params s.rcfg
          ++ [.frame [Config.params.opc .fs]]) := by
  obtain ⟨u, hu, hcore, -⟩ := lines_rrxSetup Config.params false s.core s hq hb rfl
  have hnest : u.irqNest = NEST_MAX := (congrArg State.irqNest hcore).trans h
  refine ⟨u, exec_error (e := .fatal) rfl ha ?_,
    framesOnly_of_ran hu (by simp only [hasFrame_append, hasFrame_configure, true_or]) hcore, hu.shows⟩
  rw [rrxOp_eq, bind_ok hu.ends, tau_bind_quiet hu.quiet]
  exact bind_error (disable_first_max hnest _)

/-- Settles O35: each operation's first disable, and what its lines before that have done. -/
theorem nestingLimitsAssert : Obligations.NestingLimitsAssert := by
  refine ⟨fun s ha => ⟨fun h => ⟨?_, ?_, ?_, ?_⟩, fun h hq j xdl cb => ?_, fun h hq hb => ?_, fun h => ?_⟩,
    fun s ha h => ⟨?_, fun hq => ?_⟩, fun s ha hq hl h => ?_, fun s j hfree => ⟨fun h => ?_, fun h hq => ?_⟩⟩
  · exact exec_error rfl ha (disable_first_max h _)
  · exact fun j dl cb fl => exec_error (e := .fatal) rfl ha (disable_first_max h _)
  · exact fun j => exec_error (e := .fatal) rfl ha (disable_first_max h _)
  · exact fun j xdl cb => exec_error (e := .fatal) rfl ha (disable_first_max h _)
  · rw [← extended_unlink]
    exact exec_error rfl ha (schedxOp_limit hq h j xdl cb)
  · exact rrxSingle_limit ha hq hb h
  · exact exec_error (e := .fatal) rfl ha (bind_error (irqEnable_zero h))
  · exact exec_error rfl ha (runstepOp_max h)
  · exact exec_error rfl ha (runloopOp_limit hq h)
  · exact exec_error rfl ha (finishOp_limit hq hl h)
  · exact internalOp_error hfree (xstepOp_max h j)
  · exact internalOp_error hfree (xstepOp_inner_max hq h j)

/-! ## RSLEEP (R240, R241) -/

/-- Lines 3 to 5 of RSLEEP after its frame. -/
def State.asleep (p : Params) (s : State) : State :=
  { s with
    rsleep := true, rop := .idle, chipMode := .sleep, ant := .off, tcxo := if p.tcxoPin then false else s.tcxo
    trace := s.trace ++ [.pinAnt .off] ++ if p.tcxoPin then [.pinTcxo false] else [] }

theorem enterSleep_quiet {s t : State} (p : Params) (h : ccSleep p s = .ok () t) (ht : t.quiet) :
    enterSleep p s = .ok () (t.asleep p) := by
  have htcxo (u : State) : tcxoOff p u = .ok () { u with
      tcxo := if p.tcxoPin then false else u.tcxo, trace := u.trace ++ if p.tcxoPin then [.pinTcxo false] else [] } := by
    unfold tcxoOff
    cases p.tcxoPin with
    | true => rfl
    | false =>
      simp only [Bool.false_eq_true, if_false, List.append_nil]
      rfl
  unfold enterSleep Machine.setAnt
  rw [bind_ok h, tau_bind_quiet ht, upd_bind, tau_bind_quiet (by exact ht), upd_bind, tau_bind_quiet (by exact ht),
    bind_ok (htcxo _)]
  exact tau_quiet (by exact ht)

/-- Settles O45: the flag decides; the sleep frame, then the pins. -/
theorem rsleepElidedOrSleeps : Obligations.RsleepElidedOrSleeps := by
  refine fun s ha hq hb => ⟨fun hs => exec_ok rfl ha ?_, fun hs => ?_⟩
  · unfold rsleepOp
    rw [rd_bind, hs]
    rfl
  · obtain ⟨t, ht, hcore⟩ := ran_bcmd hq hb (Config.params.opc .sleep) [Config.params.coldFlag]
    have hframe : HasFrame [Shown.frame [Config.params.opc .sleep, Config.params.coldFlag]] := ⟨_, List.mem_singleton.mpr rfl⟩
    have hbase : FramesOnly s t := framesOnly_of_ran ht hframe hcore
    have hrun : rsleepOp Config.params s = .ok () ((t.asleep Config.params).emit (.resp 0#64)) := by
      unfold rsleepOp
      rw [rd_bind, hs]
      exact bind_ok (enterSleep_quiet Config.params ht.ends ht.quiet)
    refine ⟨_, { (t.asleep Config.params).emit (.resp 0#64) with rsleep := false }, exec_ok rfl ha hrun, ?_, rfl, ?_⟩
    · unfold FramesOnly at hbase ⊢
      rw [hbase]
      rfl
    · have hshow := shows_trans ht.shows (shows_events (s := t) (t := (t.asleep Config.params).emit (.resp 0#64))
        ([.pinAnt .off] ++ (if Config.params.tcxoPin then [.pinTcxo false] else []) ++ [.resp 0#64])
        (by simp [State.asleep, State.emit]))
      rw [List.map_append, List.map_append, apply_ite (List.map Shown.out)] at hshow
      exact hshow

/-! ## RRAND (R242) -/

/-- Lines 1 to 5 of RRAND. -/
def rrandSetup (p : Params) : Op Unit := do
  ccStandby p
  Machine.setRadio .idle .standby
  tau
  ccClrirq p
  tau
  ccIrqparams p 0#16
  tau
  Machine.setAnt .rx
  tau
  ccRx p p.rxNoTimeout
  Machine.setChipMode .rx
  tau
  dwell p

/-- Lines 7 to 10 of RRAND, once the bytes are there. -/
def rrandStore (p : Params) (r : List Byte) : Op Unit := do
  tau
  ccStandby p
  Machine.setChipMode .standby
  tau
  Machine.setAnt .off
  tau
  upd fun s => { s with rcfg := { s.rcfg with rand := ofBytesBE r } }
  tau
  emit (.resp 0#64)

theorem rrandOp_eq (p : Params) : rrandOp p = rrandSetup p >>= fun _ => rreg p p.randAddr p.randN >>= rrandStore p := by
  simp only [rrandOp, rrandSetup, bind_assoc]
  rfl

/-- The dwell ends at its first due tick (log entry 13). -/
theorem lines_dwell (p : Params) (c : State) :
    Lines (dwell p) c { c with xtime := dueTime (tickAdd c.tick p.randDwell) c.xtime } [] :=
  lines_rd (fun _ => rfl) (lines_waitDue c _)

theorem lines_rrandSetup (p : Params) (c : State) :
    Lines (rrandSetup p) c
      { c with rop := .idle, chipMode := .rx, ant := .rx, xtime := dueTime (tickAdd c.tick p.randDwell) c.xtime }
      [.frame [p.opc .standby, p.stdbyCfg], .frame [p.opc .clrirq, 0xFF#8, 0xFF#8],
        .frame (p.opc .irqparams :: irqRouteBytes p 0#16), .out (.pinAnt .rx),
        .frame (p.opc .rx :: timeoutBytes p p.rxNoTimeout)] := by
  unfold rrandSetup
  exact (lines_bcmd c (p.opc .standby) _).seq <| (lines_setRadio _ .idle .standby).line <|
    (lines_bcmd _ (p.opc .clrirq) _).line <| (lines_bcmd _ (p.opc .irqparams) _).line <| (lines_setAnt _ .rx).line <|
    (lines_bcmd _ (p.opc .rx) _).seq <| (lines_setChipMode _ .rx).line <| lines_dwell p _

theorem lines_rrandStore (p : Params) (r : List Byte) (c : State) :
    Lines (rrandStore p r) c
      { c with chipMode := .standby, ant := .off, rcfg := { c.rcfg with rand := ofBytesBE r } }
      [.frame [p.opc .standby, p.stdbyCfg], .out (.pinAnt .off), .out (.resp 0#64)] := by
  have hstore (d : State) : Lines (upd fun s => { s with rcfg := { s.rcfg with rand := ofBytesBE r } }) d
      { d with rcfg := { d.rcfg with rand := ofBytesBE r } } [] :=
    lines_upd _ (fun _ h => h ▸ rfl) (fun _ => ⟨rfl, rfl, rfl, rfl, rfl⟩) fun _ => rfl
  unfold rrandStore
  exact ((lines_bcmd c (p.opc .standby) _).seq <| (lines_setChipMode _ .standby).line <| (lines_setAnt _ .off).line <|
    (hstore _).line <| lines_emit _ _).afterTau

/-- The data of a read frame whose answers are scripted: what stands after one answer for each byte sent before them. -/
theorem frameData_scripted {s : State} {pre r post : List Byte} (op : Byte) (out : List Byte)
    (h : s.chipIn = pre ++ r ++ post) (hpre : pre.length = out.length + 2) : frameData op out true r.length s = r := by
  have hlen : (frameOut op out true r.length).length = (pre ++ r).length := by
    simp [frameOut, hpre]
    omega
  have hin : s.afterBusy.chipIn = (pre ++ r) ++ post := by
    unfold State.afterBusy
    cases s.busyIn <;> exact h
  unfold frameData
  rw [hlen, answers_scripted hin]
  simp

theorem irqRouteBytes_length (p : Params) (m : BitVec 16) : (irqRouteBytes p m).length = 2 + p.routeLen := by
  simp [irqRouteBytes, irqBytes, bytes16, fixedBytes]
  omega

theorem bytesBE_length (n v : Nat) : (bytesBE n v).length = n := by
  induction n with
  | zero => rfl
  | succ n ih => exact congrArg Nat.succ ih

/-- Settles O46: the lines before the draw, the draw, the lines after it; the script is consumed byte for byte. -/
theorem rrandDrawsBytes : Obligations.RrandDrawsBytes := by
  intro s ha hq hb
  obtain ⟨t, ht, htc, hin⟩ := lines_rrandSetup Config.params s.core s hq hb rfl
  obtain ⟨u, hu, huc⟩ := ran_frame ht.quiet ht.clears (Config.params.opc .rreg) (addrBytes Config.params.randAddr) true
    Config.params.randN
  obtain ⟨v, hv, hvc, -⟩ := lines_rrandStore Config.params (frameData (Config.params.opc .rreg)
    (addrBytes Config.params.randAddr) true Config.params.randN t) u.core u hu.quiet hu.clears rfl
  have hrun := ran_bind ht (g := fun _ => rreg Config.params Config.params.randAddr Config.params.randN
    >>= rrandStore Config.params) (ran_bind hu hv)
  rw [← rrandOp_eq] at hrun
  refine ⟨v, frameData (Config.params.opc .rreg) (addrBytes Config.params.randAddr) true Config.params.randN t,
    exec_ok rfl ha hrun.ends, frameData_length .., framesOnly_of_ran hrun (hasFrame_of_mem List.mem_cons_self) ?_,
    fun pre r' post hchip hpre hr' => ?_, hrun.shows⟩
  · rw [hvc, huc, htc]
    rfl
  · have hbytes : shownBytes [.frame [Config.params.opc .standby, Config.params.stdbyCfg],
        .frame [Config.params.opc .clrirq, 0xFF#8, 0xFF#8],
        .frame (Config.params.opc .irqparams :: irqRouteBytes Config.params 0#16), .out (.pinAnt .rx),
        .frame (Config.params.opc .rx :: timeoutBytes Config.params Config.params.rxNoTimeout)]
        = 2 + 3 + (3 + Config.params.routeLen) + (1 + Config.params.timeoutLen) := by
      simp [shownBytes, Shown.bytes, irqRouteBytes_length, timeoutBytes, bytesBE_length]
      omega
    rw [hbytes, hchip, List.append_assoc, List.drop_append_of_le_length (by omega), ← List.append_assoc] at hin
    rw [← hr']
    refine frameData_scripted _ _ hin ?_
    rw [List.length_drop, hpre, addrBytes, bytesBE_length, show ADDR_BYTES = 2 from rfl]
    omega

end Sys2Proof.Machine
end

section
/-!
PROOF. RINIT with and without its self-check (44_radio.md R220 to R222), and rx_done() of RPROC, where frames and writes of
RCFG alternate (R249).
-/

namespace Sys2Proof.Machine

/-- What CHIP answers depends on the script of the line and on CHIP's, and on nothing else. -/
theorem frameData_congr {s t : State} (hb : t.busyIn = s.busyIn) (hc : t.chipIn = s.chipIn) (hd : t.draws = s.draws)
    (op : Byte) (out : List Byte) (st : Bool) (nin : Nat) : frameData op out st nin t = frameData op out st nin s := by
  unfold frameData State.afterBusy
  rw [hb]
  cases s.busyIn with
  | nil => exact congrArg (List.drop _) (answers_congr _ hc (congrArg (· + 1) hd))
  | cons b rest => exact congrArg (List.drop _) (answers_congr _ hc hd)

/-! ## RINIT (R220 to R222) -/

/-- The pulse on the reset line. -/
def State.pulsed (s : State) : State := { s with rst := .float, trace := s.trace ++ [.pinRst .low, .pinRst .float] }

/-- The state after the read of the check register, whose busy line reads 0 after n polls. -/
def State.checked (p : Params) (n : Nat) (s : State) : State :=
  frameDone (p.opc .rreg) (addrBytes p.chkAddr) true p.chkLen n s.pulsed

theorem checked_quiet {s : State} (hq : s.quiet) (p : Params) (n : Nat) : (s.checked p n).quiet :=
  frameDone_quiet (s := s.pulsed) hq ..

theorem checked_framesOnly (p : Params) (n : Nat) (s : State) : FramesOnly { s with rst := .float } (s.checked p n) :=
  frameDone_framesOnly (s := s.pulsed) ..

/-- Lines 2 to 6 of RINIT up to the verdict on what CHIP answered. -/
theorem resetAndCheck_eq {s : State} {n : Nat} (p : Params) (hq : s.quiet) (hb : s.busyNow = some n) :
    resetAndCheck p s
      = (if frameData (p.opc .rreg) (addrBytes p.chkAddr) true p.chkLen s = p.chkValue then Machine.setChipMode .standby
          else raise .resetReadback) (s.checked p n) := by
  have hframe : rreg p p.chkAddr p.chkLen s.pulsed
      = .ok (frameData (p.opc .rreg) (addrBytes p.chkAddr) true p.chkLen s) (s.checked p n) :=
    frameData_congr (t := s.pulsed) (s := s) rfl rfl rfl (p.opc .rreg) (addrBytes p.chkAddr) true p.chkLen ▸
      busFrame_quiet (s := s.pulsed) hq hb (p.opc .rreg) (addrBytes p.chkAddr) true p.chkLen
  have hpulse : ({ State.emit (.pinRst .float) { s.emit (.pinRst .low) with rst := .low } with rst := .float } : State)
      = s.pulsed := by
    simp [State.emit, State.pulsed]
  unfold resetAndCheck setRst
  rw [upd_bind, tau_bind_quiet (by exact hq), upd_bind, tau_bind_quiet (by exact hq)]
  rw [hpulse, bind_ok hframe, tau_bind_quiet (checked_quiet hq p n)]

/-- Settles O47: with a reset line the check passes and the last lines follow; without one no frame is issued. -/
theorem rinitChecksChip : Obligations.RinitChecksChip := by
  intro s ha hq p
  cases hreset : p.hasReset with
  | false =>
    simp only [Bool.false_eq_true, if_false]
    refine exec_ok rfl ha ?_
    unfold rinitOp initUnchecked
    rw [show Config.params.hasReset = false from hreset, if_neg (by decide), upd_bind, tau_bind_quiet (by exact hq), upd_bind,
      tau_bind_quiet (by exact hq), emit_run]
    rfl
  | true =>
    simp only [if_true]
    intro n hn hvalue
    have hdone := checked_quiet hq p n
    have hrun : rinitOp p s = .ok ()
        (State.emit (.resp 0#64) { s.checked p n with chipMode := .standby, rop := .idle }) := by
      unfold rinitOp
      rw [hreset, if_pos rfl, bind_ok ((resetAndCheck_eq p hq hn).trans (by rw [if_pos hvalue]; rfl)),
        tau_bind_quiet (by exact hdone), upd_bind, tau_bind_quiet (by exact hdone), emit_run]
    refine ⟨_, exec_ok rfl ha hrun, ?_, rfl⟩
    have hframes := checked_framesOnly p n s
    unfold FramesOnly at hframes ⊢
    rw [hframes]
    rfl

/-- Settles O48: the mismatch is raised in the state the frame has left, on any legal configuration with a reset line. -/
theorem rinitMismatchFatal : Obligations.RinitMismatchFatal := by
  refine ⟨fun s => exec_command rfl s, fun p s n _ hreset ha hq hn hvalue => ?_⟩
  have hrun : rinitOp p s = .error .fatal ((s.checked p n).hardFault .resetReadback) := by
    unfold rinitOp
    rw [hreset, if_pos rfl]
    exact bind_error ((resetAndCheck_eq p hq hn).trans (by rw [if_neg hvalue]; rfl))
  exact ⟨_, command_error ha hrun, checked_framesOnly p n s, rfl⟩

/-! ## rx_done() (R249) -/

section
variable (op : Byte) (out : List Byte) (st : Bool) (nin n : Nat) (s : State)

/-- A frame reads and writes no register of the shared record. -/
theorem frameDone_record (r : Rcfg) :
    frameDone op out st nin n { s with rcfg := r } = { frameDone op out st nin n s with rcfg := r } := by
  have hdata := frameData_congr (t := { s with rcfg := r }) (s := s) rfl rfl rfl op out st nin
  rw [frameDone_eq, frameDone_eq, hdata]
  unfold State.afterBusy
  dsimp only
  cases s.busyIn <;> rfl

theorem frameDone_frame : (frameDone op out st nin n s).frame = s.frame :=
  show (frameDone op out st nin n s).core.frame = s.core.frame by rw [frameDone_core]

end

/-- A frame after a line that has written RCFG. -/
theorem busFrame_record {s : State} {n : Nat} (hq : s.quiet) (hb : s.busyNow = some n) (op : Byte) (out : List Byte) (st : Bool)
    (nin : Nat) (r : Rcfg) :
    busFrame op out st nin { s with rcfg := r }
      = .ok (frameData op out st nin s) { frameDone op out st nin n s with rcfg := r } := by
  rw [busFrame_quiet (s := { s with rcfg := r }) hq hb, frameDone_record,
    frameData_congr (t := { s with rcfg := r }) (s := s) rfl rfl rfl]

/-- What rx_done() leaves in RCFG. -/
def Rcfg.received (p : Params) (ts : Tick) (qual : List Byte) (len : Byte) (r : Rcfg) : Rcfg :=
  let rxend := ts - rxdoneFixup p r.kind r.bw r.sf
  { r with
    rssi := p.rssiOf r.kind qual
    snr := match r.kind with | .lora => p.snrOf qual | .fsk => r.snr
    datalen := len
    rxend := rxend
    rxstart := rxend - p.airtime r.airKey len
    timedout := false }

/-- rx_done() from three read frames that leave RCFG as it stands. -/
theorem rxDone_frames {p : Params} {s s2 s3 s4 : State} {qual buf d : List Byte} (hqual : ccPktstatus p s = .ok qual s2)
    (hbuf : ∀ r, ccRxbufstatus p { s2 with rcfg := r } = .ok buf { s3 with rcfg := r })
    (hd : ∀ r, rbuf p (buf.getD 1 0#8) (buf.getD 0 0#8).toNat { s3 with rcfg := r } = .ok d { s4 with rcfg := r })
    (h2 : s2.quiet) (h3 : s3.quiet) (h4 : s4.quiet) :
    rxDone p s = .ok () { s4 with
      rcfg := s2.rcfg.received p s4.irqTs qual (buf.getD 0 0#8), frame := Memory.writeFrom s4.frame 0 d } := by
  unfold rxDone signalQuality storePayload frameEnd frameStart
  rw [bind_ok hqual, tau_bind_quiet h2, upd_bind, tau_bind_quiet (by exact h2), bind_ok (hbuf _)]
  dsimp only
  rw [tau_bind_quiet (by exact h3), bind_ok (hd _), upd_bind, tau_bind_quiet (by exact h4), upd_bind,
    tau_bind_quiet (by exact h4), upd_bind, tau_bind_quiet (by exact h4), upd_run]
  rfl

theorem rxDone_completes {p : Params} {s s2 s3 s4 : State} {qual buf d : List Byte} (hqual : ccPktstatus p s = .ok qual s2)
    (hbuf : ∀ r, ccRxbufstatus p { s2 with rcfg := r } = .ok buf { s3 with rcfg := r })
    (hd : ∀ r, rbuf p (buf.getD 1 0#8) (buf.getD 0 0#8).toNat { s3 with rcfg := r } = .ok d { s4 with rcfg := r })
    (h2 : s2.quiet) (h3 : s3.quiet) (h4 : s4.quiet) (hop : s4.rop ≠ .tx) :
    (rxDone p >>= fun _ => tau >>= fun _ => complete) s = .ok () { s4 with
      rcfg := s2.rcfg.received p s4.irqTs qual (buf.getD 0 0#8)
      frame := Memory.writeFrom s4.frame 0 d
      chipMode := .standby
      ant := .off
      rop := .idle
      rlState := .dispatching
      trace := s4.trace ++ [.pinAnt .off, .complete .rx] } := by
  rw [bind_ok (rxDone_frames hqual hbuf hd h2 h3 h4), tau_bind_quiet (by exact h4), complete_quiet (by exact h4), completionKind,
    if_neg hop]

/-- Settles O51: the status frame, rx_done() and complete(), with each busy line's answer drawn where its frame begins. -/
theorem rprocReceiveDone : Obligations.RprocReceiveDone := by
  intro s hfree hq hb hrop hst p hdone htmo
  have hrx : s.rop ≠ .idle ∧ s.rop ≠ .txcw ∧ s.rop ≠ .tx := by rcases hrop with h | h <;> simp [h]
  obtain ⟨hidle, hcw, htx⟩ := hrx
  obtain ⟨n1, hn1⟩ := busyClears_now hb
  have hq1 := frameDone_quiet hq (p.opc .getirq) [] true 2 n1
  have hb1 := frameDone_clears hb (p.opc .getirq) [] true 2 n1
  obtain ⟨n2, hn2⟩ := busyClears_now hb1
  have hq2 := frameDone_quiet hq1 (p.opc .pktstatus) [] true p.nPktStatus n2
  have hb2 := frameDone_clears hb1 (p.opc .pktstatus) [] true p.nPktStatus n2
  obtain ⟨n3, hn3⟩ := busyClears_now hb2
  have hq3 := frameDone_quiet hq2 (p.opc .rxbufstatus) [] true 2 n3
  have hb3 := frameDone_clears hb2 (p.opc .rxbufstatus) [] true 2 n3
  obtain ⟨n4, hn4⟩ := busyClears_now hb3
  refine ⟨n1, n2, n3, n4, ?_⟩
  intro s1 qual s2 buf len s3 d s4 rxend
  refine ⟨hn1, hn2, hn3, hn4, ?_⟩
  have hq4 : s4.quiet := frameDone_quiet hq3 ..
  have hrun := rxDone_completes (p := p) (busFrame_quiet hq1 hn2 (p.opc .pktstatus) [] true p.nPktStatus)
    (fun r => busFrame_record hq2 hn3 (p.opc .rxbufstatus) [] true 2 r)
    (fun r => busFrame_record hq3 hn4 (p.opc .rbuf) [buf.getD 1 0#8] true len.toNat r) hq2 hq3 hq4
    (by simpa [s4, s3, s2, s1] using htx)
  have hrcfg : s2.rcfg = s.rcfg := by simp [s2, s1]
  have hts : s4.irqTs = s.irqTs := by simp [s4, s3, s2, s1]
  have hframe : s4.frame = s.frame := by simp [s4, s3, s2, s1, frameDone_frame]
  have hlen : d.length = len.toNat := frameData_length ..
  have hmax : len.toNat ≤ MAX_LEN := Nat.le_of_lt_succ len.isLt
  have hmask : doneMask p s.rop = p.irqRxdone := if_neg htx
  have hexec := exec_rproc_armed hfree hq hn1 hidle hcw
  rw [processStatus_done (by rwa [hmask]) htmo, if_neg htx, runOp_ok hrun] at hexec
  refine ⟨_, hexec, ?_, fun a ha => ?_, fun a ha => ?_, rfl⟩
  · show s2.rcfg.received p s4.irqTs qual len = _
    rw [hrcfg, hts]
    rfl
  · show Memory.read (Memory.writeFrom s4.frame 0 d) a = _
    have hread := memory_read_writeFrom_inside d (a := 0) hst.1 (hlen.symm ▸ ha) (by omega)
    rwa [Nat.zero_add, ← hframe] at hread
  · show Memory.read (Memory.writeFrom s4.frame 0 d) a = _
    rw [hframe]
    exact memory_read_writeFrom_outside d s.frame (.inr (by omega))

end Sys2Proof.Machine
end

section
/-!
PROOF. The order of the queue within one window (10_state.md R29; 40_clock.md R123; 41_scheduler.md R139, R143): on deadlines
of one window "not later" is transitive, so the order of neighbours is the order of all, and the primitives keep it.
-/

namespace Sys2Proof.Machine

/-! ## One window of ticks (R123) -/

/-- d lies in the window of 2^31 ticks from base on. -/
def InBase (base d : Tick) : Prop := ∃ o : Nat, o ≤ SAFE_SPAN ∧ d = tickAdd base o

theorem inBase_trans {base a b c : Tick} (ha : InBase base a) (hb : InBase base b) (hc : InBase base c) (hab : sdiff a b ≤ 0)
    (hbc : sdiff b c ≤ 0) : sdiff a c ≤ 0 := by
  obtain ⟨oa, hoa, rfl⟩ := ha
  obtain ⟨ob, hob, rfl⟩ := hb
  obtain ⟨oc, hoc, rfl⟩ := hc
  rw [sdiff_window base hoa hob] at hab
  rw [sdiff_window base hob hoc] at hbc
  rw [sdiff_window base hoa hoc]
  omega

theorem inBase_later {base a b : Tick} (ha : InBase base a) (hb : InBase base b) (h : later a b = true) : sdiff b a ≤ 0 := by
  obtain ⟨oa, hoa, rfl⟩ := ha
  obtain ⟨ob, hob, rfl⟩ := hb
  have hpos : 0 < sdiff (tickAdd base oa) (tickAdd base ob) := by simpa [later] using h
  rw [sdiff_window base hoa hob] at hpos
  rw [sdiff_window base hob hoa]
  omega

theorem later_eq_false_iff (a b : Tick) : later a b = false ↔ sdiff a b ≤ 0 := by
  simp [later]

/-! ## The order of neighbours is the order of all -/

section
variable {base : Tick} {f g : JobId → Tick} {q : List JobId}

theorem adjacentOrdered_iff_pairwise (h : ∀ e ∈ q, InBase base (f e)) :
    adjacentOrdered f q ↔ q.Pairwise fun a b => sdiff (f a) (f b) ≤ 0 := by
  induction q with
  | nil => simp [adjacentOrdered]
  | cons a rest ih =>
    have hrest := ih fun e he => h e (List.mem_cons_of_mem a he)
    cases rest with
    | nil => simp [adjacentOrdered]
    | cons b rest =>
      have hb : InBase base (f b) := h b (by simp)
      rw [adjacentOrdered, hrest, List.pairwise_cons (a := a)]
      refine ⟨fun ⟨hab, hp⟩ => ⟨fun c hc => ?_, hp⟩, fun ⟨ha, hp⟩ => ⟨ha b List.mem_cons_self, hp⟩⟩
      rcases List.mem_cons.mp hc with rfl | hc'
      · exact hab
      · exact inBase_trans (h a (by simp)) hb (h c (by simp [hc'])) hab ((List.pairwise_cons.mp hp).1 c hc')

/-- Inserting before the first later entry keeps the order, the new entry with its own deadline. -/
theorem pairwise_insertBefore {j : JobId} {dl : Tick} (hj : g j = dl) (hg : ∀ e ∈ q, g e = f e) (hdl : InBase base dl)
    (h : ∀ e ∈ q, InBase base (f e)) (hq : q.Pairwise fun a b => sdiff (f a) (f b) ≤ 0) :
    (insertBefore f j dl q).Pairwise fun a b => sdiff (g a) (g b) ≤ 0 := by
  have hkept {l : List JobId} (hl : ∀ e ∈ l, g e = f e) (hp : l.Pairwise fun a b => sdiff (f a) (f b) ≤ 0) :
      l.Pairwise fun a b => sdiff (g a) (g b) ≤ 0 :=
    hp.imp_of_mem fun ha hb hab => by rwa [hl _ ha, hl _ hb]
  induction q with
  | nil => exact List.pairwise_singleton _ j
  | cons e rest ih =>
    obtain ⟨he, hrest⟩ := List.pairwise_cons.mp hq
    have hge : g e = f e := hg e List.mem_cons_self
    have hbe : InBase base (f e) := h e List.mem_cons_self
    cases hl : later (f e) dl with
    | true =>
      have hle : sdiff dl (f e) ≤ 0 := inBase_later hbe hdl hl
      rw [insertBefore, if_pos hl, List.pairwise_cons]
      refine ⟨fun c hc => ?_, hkept hg hq⟩
      rw [hj, hg c hc]
      rcases List.mem_cons.mp hc with rfl | hc'
      · exact hle
      · exact inBase_trans hdl hbe (h c hc) hle (he c hc')
    | false =>
      rw [insertBefore, if_neg (by simp [hl]), List.pairwise_cons]
      refine ⟨fun c hc => ?_, ih (fun k hk => hg k (List.mem_cons_of_mem e hk))
        (fun k hk => h k (List.mem_cons_of_mem e hk)) hrest⟩
      rcases mem_insertBefore.mp hc with rfl | hc'
      · rw [hge, hj]
        exact (later_eq_false_iff _ _).mp hl
      · rw [hge, hg c (List.mem_cons_of_mem e hc')]
        exact he c hc'

end

/-! ## The queue in a window -/

/-- The queue is ordered and without duplicates, its deadlines are in the window from base on, and the records are canonical. -/
structure QueueIn (base : Tick) (s : State) : Prop where
  canonical : storeCanonical JobRec.reset s.jobs
  nodup : s.q.Nodup
  inside : ∀ e ∈ s.q, InBase base (s.dlOf e)
  ordered : s.queueOrdered

section
variable {base : Tick} {s : State}

theorem QueueIn.pairwise (h : QueueIn base s) : s.q.Pairwise fun a b => sdiff (s.dlOf a) (s.dlOf b) ≤ 0 :=
  (adjacentOrdered_iff_pairwise h.inside).mp h.ordered

theorem QueueIn.congr {t : State} (h : QueueIn base s) (hj : t.jobs = s.jobs) (hq : t.q = s.q) : QueueIn base t := by
  have hdl : t.dlOf = s.dlOf := by
    unfold State.dlOf State.job
    rw [hj]
  exact {
    canonical := hj ▸ h.canonical
    nodup := hq ▸ h.nodup
    inside := fun e he => hdl ▸ h.inside e (hq ▸ he)
    ordered := by
      unfold State.queueOrdered
      rw [hdl, hq]
      exact h.ordered }

theorem QueueIn.filter {t : State} (h : QueueIn base s) (hc : storeCanonical JobRec.reset t.jobs) {p : JobId → Bool}
    (hq : t.q = s.q.filter p) (hdl : ∀ e ∈ t.q, t.dlOf e = s.dlOf e) : QueueIn base t := by
  have hmem : ∀ e ∈ t.q, e ∈ s.q := fun e he => (List.mem_filter.mp (hq ▸ he)).1
  have hin : ∀ e ∈ t.q, InBase base (t.dlOf e) := fun e he => hdl e he ▸ h.inside e (hmem e he)
  refine ⟨hc, hq ▸ h.nodup.filter p, hin, (adjacentOrdered_iff_pairwise hin).mpr ?_⟩
  have hp : t.q.Pairwise fun a b => sdiff (s.dlOf a) (s.dlOf b) ≤ 0 := hq ▸ h.pairwise.filter p
  exact hp.imp_of_mem fun ha hb hab => by rwa [hdl _ ha, hdl _ hb]

theorem QueueIn.unlink (h : QueueIn base s) (j : JobId) : QueueIn base (s.unlink j) :=
  h.filter (by simpa using h.canonical) (unlink_q s j) fun e _ => congrArg JobRec.dl (unlink_job s j e)

/-- The wide deadline and its callback are no part of the order. -/
theorem QueueIn.ext (h : QueueIn base s) (j : JobId) (xdl : XTime) (xcb : CbId) : QueueIn base (s.writeExt j xdl xcb) := by
  refine h.filter (p := fun _ => true) (storePut_jobs_canonical h.canonical j _) (by simp) fun e _ => ?_
  by_cases he : e = j
  · subst he
    show ((s.writeExt e xdl xcb).job e).dl = (s.job e).dl
    rw [writeExt_self h.canonical]
  · exact congrArg JobRec.dl (writeExt_other s xdl xcb he)

theorem QueueIn.schedule (h : QueueIn base s) {now dl : Tick} {fl : FlagSet} (hdl : InBase base (normalise now dl fl).1)
    (j : JobId) (cb : CbId) : QueueIn base (s.schedule now j dl cb fl) := by
  have hself : (s.schedule now j dl cb fl).dlOf j = (normalise now dl fl).1 :=
    congrArg JobRec.dl (schedule_job_self h.canonical now j dl cb fl)
  have hother : ∀ e ∈ s.q.filter (· != j), (s.schedule now j dl cb fl).dlOf e = s.dlOf e := fun e he =>
    congrArg JobRec.dl (schedule_job_other s now dl cb fl (by simpa using (List.mem_filter.mp he).2))
  have hold : ∀ e ∈ s.q.filter (· != j), InBase base (s.dlOf e) := fun e he => h.inside e (List.mem_filter.mp he).1
  have hin : ∀ e ∈ (s.schedule now j dl cb fl).q, InBase base ((s.schedule now j dl cb fl).dlOf e) := by
    intro e he
    rw [schedule_q] at he
    rcases mem_insertBefore.mp he with rfl | he'
    · exact hself ▸ hdl
    · exact hother e he' ▸ hold e he'
  refine ⟨?_, ?_, hin, (adjacentOrdered_iff_pairwise hin).mpr ?_⟩
  · rw [schedule_jobs]
    exact storePut_canonical _ _ (by simpa using h.canonical)
  · rw [schedule_q]
    exact insertBefore_nodup (by simp) (h.nodup.filter _)
  · rw [schedule_q]
    exact pairwise_insertBefore hself hother hdl hold (h.pairwise.filter _)

theorem QueueIn.rirq (h : QueueIn base s) (ht : InBase base s.tick) : QueueIn base s.rirq := by
  have hsched : QueueIn base (s.schedule s.tick RJOB s.tick CB_RPROC FL_IMMED) :=
    h.schedule (by rw [normalise_of_due FL_IMMED (due_self s.tick)]; exact ht) RJOB CB_RPROC
  rw [rirq_eq]
  exact hsched.congr rfl rfl

end

/-- The scheduled job is there once: as many entries as before when it was queued, else one more. -/
theorem schedule_length {s : State} (hn : s.q.Nodup) (now : Tick) (j : JobId) (dl : Tick) (cb : CbId) (fl : FlagSet) :
    (s.schedule now j dl cb fl).q.length = if j ∈ s.q then s.q.length else s.q.length + 1 := by
  rw [schedule_q, (insertBefore_perm ..).length_eq, List.length_cons]
  by_cases hj : j ∈ s.q
  · rw [if_pos hj, ← hn.erase_eq_filter, List.length_erase_of_mem hj]
    have hpos : 0 < s.q.length := List.length_pos_of_mem hj
    omega
  · rw [if_neg hj, filter_ne_of_not_mem hj]

end Sys2Proof.Machine
end

section
/-!
PROOF. The queue stays ordered in every undisturbed operation (41_scheduler.md R143): the operations that schedule keep its
deadlines in the window, an interrupt served on the way queues RJOB at the present tick, and the driver leaves queue, records
and nesting alone.
-/

namespace Sys2Proof.Machine

/-- What every operation ends with. -/
def Ordered (s : State) : Prop := s.queueOrdered ∧ s.q.Nodup

theorem QueueIn.ends {base : Tick} {s : State} (h : QueueIn base s) : Ordered s := ⟨h.ordered, h.nodup⟩

/-! ## Assertions about the queue in a quiet state -/

/-- t is as s for clock, script, records and queue. -/
structure SameQueue (s t : State) : Prop where
  moments : t.moments = s.moments
  xtime : t.xtime = s.xtime
  jobs : t.jobs = s.jobs
  q : t.q = s.q

/-- An assertion that is about these alone, and that a served interrupt keeps. -/
structure QueueHeld (I : State → Prop) : Prop where
  quiet : ∀ s, I s → s.quiet
  same : ∀ s t, SameQueue s t → I s → I t
  rirq : ∀ s, I s → I s.rirq
  ends : ∀ s, I s → Ordered s

section
variable {I : State → Prop} (h : QueueHeld I)
include h

theorem QueueHeld.time : TimeKept I Ordered where
  tau s hs := by
    rw [tau_quiet (h.quiet s hs)]
    exact hs
  fault s c hs := h.ends _ (h.same s _ ⟨by simp, by simp, by simp, by simp⟩ hs)
  emit s e hs := h.same s _ ⟨rfl, rfl, rfl, rfl⟩ hs

theorem QueueHeld.nest : NestKept I Ordered where
  toTimeKept := h.time
  disable s hs := by
    by_cases hmax : s.irqNest = NEST_MAX
    · rw [irqDisable_max hmax]
      exact h.time.fault s _ hs
    · rw [irqDisable_quiet hmax]
      exact h.same s _ ⟨rfl, rfl, rfl, rfl⟩ hs
  enable s hs := by
    by_cases h0 : s.irqNest = 0#8
    · rw [irqEnable_zero h0]
      exact h.time.fault s _ hs
    · by_cases hp : s.irqNest = 1#8 ∧ s.irqPend = true ∧ s.fault = false
      · obtain ⟨h1, hp, hf⟩ := hp
        rw [irqEnable_serves h1 hp hf]
        exact h.rirq _ (h.same s _ ⟨rfl, rfl, rfl, rfl⟩ hs)
      · rw [irqEnable_ok h0 hp]
        exact h.same s _ ⟨rfl, rfl, rfl, rfl⟩ hs

theorem QueueHeld.loop : LoopKept I Ordered where
  time := h.nest
  write s t ht hs := h.same s t ⟨by rw [ht], by rw [ht], by rw [ht], by rw [ht]⟩ hs

end

/-- A line that reads what the assertion knows. -/
theorem Op.spec_read_eq {α β : Type} {I E : State → Prop} {R : α → State → Prop} {f : State → β} {b : β} {k : β → Op α}
    (hf : ∀ s, I s → f s = b) (hk : Op.Spec I (k b) R E) : Op.Spec I (rd f >>= k) R E := by
  intro s hs
  rw [rd_bind, hf s hs]
  exact hk s hs

/-! ## The operations that schedule, with the new deadline in the window -/

/-- At the clock value x, in the window from base on, nothing scripted. -/
def Windowed (base : Tick) (x : XTime) (s : State) : Prop := s.quiet ∧ s.xtime = x ∧ QueueIn base s

section
variable {base : Tick} {x : XTime} (hx : InBase base (xt2tick x))
include hx

theorem windowed_held : QueueHeld (Windowed base x) where
  quiet s h := h.1
  same s t ht h := ⟨ht.moments.trans h.1, ht.xtime.trans h.2.1, h.2.2.congr ht.jobs ht.q⟩
  rirq s h := ⟨by simpa [State.quiet] using h.1, by simpa using h.2.1, h.2.2.rirq (by rw [State.tick, h.2.1]; exact hx)⟩
  ends s h := h.2.2.ends

omit hx in
theorem windowed_scheduleOp {now dl : Tick} {fl : FlagSet} (hdl : InBase base (normalise now dl fl).1) (j : JobId) (cb : CbId) :
    Op.Keeps (Windowed base x) Ordered (scheduleOp now j dl cb fl) := by
  intro s ⟨hq, ht, hin⟩
  rw [scheduleOp_quiet hq]
  exact ⟨by simpa [State.quiet] using hq, by simpa using ht, hin.schedule hdl j cb⟩

theorem windowed_schedPrime {now dl : Tick} {fl : FlagSet} (hdl : InBase base (normalise now dl fl).1) (j : JobId) (cb : CbId) :
    Op.Keeps (Windowed base x) Ordered (schedPrime now j dl cb fl) :=
  have h := (windowed_held hx).nest
  h.line h.disable <| h.line (windowed_scheduleOp hdl j cb) h.enable

theorem windowed_sched {dl : Tick} {fl : FlagSet} (hdl : InBase base (normalise (xt2tick x) dl fl).1) (j : JobId) (cb : CbId) :
    Op.Keeps (Windowed base x) Ordered (schedOp j dl cb fl) :=
  have h := (windowed_held hx).nest
  h.line h.disable <|
  Op.spec_read_eq (fun _ hs => congrArg xt2tick hs.2.1) <|
  Op.spec_bind h.tau fun _ =>
  h.line (windowed_scheduleOp hdl j cb) <|
  h.line h.enable <| h.shows _

omit hx in
theorem windowed_unlink (j : JobId) : Op.Keeps (Windowed base x) Ordered (upd (State.unlink j)) :=
  Op.keeps_upd fun _ ⟨hq, ht, hin⟩ => ⟨by simpa [State.quiet] using hq, by simpa using ht, hin.unlink j⟩

theorem windowed_cancel (j : JobId) : Op.Keeps (Windowed base x) Ordered (cancelOp j) :=
  have h := (windowed_held hx).nest
  h.line h.disable <|
  Op.spec_read fun _ =>
  h.line (windowed_unlink j) <|
  h.line h.enable <| h.shows _

/-- The deadline XSTEP gives j at s is in the window. -/
def XstepIn (base : Tick) (j : JobId) (s : State) : Prop :=
  InBase base (normalise s.tick (xstepChoice s.xtime (s.job j).xdl (s.job j).xcb).1
    (xstepChoice s.xtime (s.job j).xdl (s.job j).xcb).2.2).1

theorem windowed_xstep (j : JobId) :
    Op.Spec (fun s => Windowed base x s ∧ XstepIn base j s) (xstepOp j) (fun _ => Windowed base x) Ordered := by
  have h := windowed_held hx
  intro s ⟨hs, hdl⟩
  by_cases hmax : s.irqNest = NEST_MAX
  · rw [xstepOp_max hmax]
    exact h.time.fault s _ hs
  · unfold xstepOp
    rw [bind_ok (irqDisable_quiet hmax), tau_bind_quiet (by exact hs.1), rd_bind, tau_bind_quiet (by exact hs.1), rd_bind,
      tau_bind_quiet (by exact hs.1)]
    exact h.time.line (windowed_schedPrime hx (by exact hdl) j _) h.nest.enable _ (h.same s _ ⟨rfl, rfl, rfl, rfl⟩ hs)

theorem windowed_schedx (j : JobId) {xdl : XTime} {cb : CbId}
    (hdl : InBase base (normalise (xt2tick x) (xstepChoice x xdl cb).1 (xstepChoice x xdl cb).2.2).1) :
    Op.Keeps (Windowed base x) Ordered (schedxOp j xdl cb) := by
  have h := (windowed_held hx).nest
  have hext : Op.Spec (Windowed base x) (upd (State.writeExt j xdl cb))
      (fun _ s => Windowed base x s ∧ XstepIn base j s) Ordered := by
    refine Op.spec_upd fun s ⟨hq, ht, hin⟩ => ⟨⟨hq, ht, hin.ext j xdl cb⟩, ?_⟩
    unfold XstepIn
    rw [writeExt_self hin.canonical]
    show InBase base (normalise (xt2tick s.xtime) (xstepChoice s.xtime xdl cb).1 (xstepChoice s.xtime xdl cb).2.2).1
    rw [ht]
    exact hdl
  have htau : Op.Keeps (fun s => Windowed base x s ∧ XstepIn base j s) Ordered tau := fun s hs => by
    rw [tau_quiet hs.1.1]
    exact hs
  exact h.line h.disable <|
    h.line (windowed_unlink j) <|
    Op.spec_line hext htau <|
    h.line (windowed_xstep hx j) <|
    h.line h.enable <| h.shows _

end

/-! ## The driver leaves queue and records alone -/

/-- t has the queue and the records of s, at nesting n with nothing scripted; nothing has come to be latched. -/
structure Aside (s : State) (n : BitVec NEST_W) (t : State) : Prop where
  quiet : t.quiet
  q : t.q = s.q
  jobs : t.jobs = s.jobs
  irqPend : t.irqPend = s.irqPend
  irqNest : t.irqNest = n

section
variable {s : State} {n : BitVec NEST_W}

theorem aside_self (hq : s.quiet) : Aside s s.irqNest s := ⟨hq, rfl, rfl, rfl, rfl⟩

theorem Aside.congr {t u : State} (h : Aside s n t) (hm : u.moments = t.moments) (hq : u.q = t.q) (hj : u.jobs = t.jobs)
    (hp : u.irqPend = t.irqPend) (hn : u.irqNest = t.irqNest) : Aside s n u :=
  ⟨hm.trans h.quiet, hq.trans h.q, hj.trans h.jobs, hp.trans h.irqPend, hn.trans h.irqNest⟩

theorem ordered_congr {t : State} (hq : t.q = s.q) (hj : t.jobs = s.jobs) (h : Ordered s) : Ordered t := by
  unfold Ordered State.queueOrdered State.dlOf State.job
  rw [hq, hj]
  exact h

variable (hord : Ordered s)
include hord

theorem Aside.ends {t : State} (h : Aside s n t) : Ordered t := ordered_congr h.q h.jobs hord

theorem aside_time : TimeKept (Aside s n) Ordered where
  tau t h := by
    rw [tau_quiet h.quiet]
    exact h
  fault t c h := Aside.ends (n := n) hord (h.congr (by simp) (by simp) (by simp) (by simp) (by simp))
  emit t e h := h.congr rfl rfl rfl rfl rfl

theorem aside_frame : FrameKept (Aside s n) (Aside s n) (Aside s n) Ordered where
  tau := (aside_time hord).tau
  start t h := h.congr rfl rfl rfl rfl rfl
  write t u hu h := h.congr (by rw [hu]) (by rw [hu]) (by rw [hu]) (by rw [hu]) (by rw [hu])
  hang t h := ordered_congr (s := t) rfl rfl (h.ends hord)
  done t u hu _ h := h.congr (by rw [hu]) (by rw [hu]) (by rw [hu]) (by rw [hu]) (by rw [hu])

theorem aside_driver : DriverLines (Aside s n) (Aside s n) Ordered where
  before := aside_time hord
  pins t u hu h := h.congr (by rw [hu]) (by rw [hu]) (by rw [hu]) (by rw [hu]) (by rw [hu])
  first := (aside_frame hord).frame
  wake t h := h.congr rfl rfl rfl rfl rfl
  time := aside_time hord
  wait d t h := by
    rw [waitDue_quiet h.quiet]
    exact h.congr rfl rfl rfl rfl rfl
  frame := (aside_frame hord).frame
  write t u hu h := h.congr (by rw [hu]) (by rw [hu]) (by rw [hu]) (by rw [hu]) (by rw [hu])

theorem aside_lock : Op.Spec (Aside s n) irqDisable (fun _ => Aside s (n + 1)) Ordered := by
  intro t h
  by_cases hmax : t.irqNest = NEST_MAX
  · rw [irqDisable_max hmax]
    exact (aside_time hord).fault t _ h
  · rw [irqDisable_quiet hmax]
    exact ⟨h.quiet, h.q, h.jobs, h.irqPend, congrArg (· + 1) h.irqNest⟩

/-- The enable that ends a single-shot receive serves nothing: no interrupt was waiting where it could be taken (R283). -/
theorem aside_unlock (hi : ¬(s.irqPend = true ∧ n = 0#8)) :
    Op.Spec (Aside s (n + 1)) irqEnable (fun _ => Aside s n) Ordered := by
  intro t h
  by_cases h0 : t.irqNest = 0#8
  · rw [irqEnable_zero h0]
    exact (aside_time hord).fault t _ h
  · rw [irqEnable_ok h0 fun hc => hi ⟨h.irqPend ▸ hc.2.1, (nest_succ_eq_one n).mp (h.irqNest ▸ hc.1)⟩]
    exact ⟨h.quiet, h.q, h.jobs, h.irqPend, by rw [h.irqNest]; exact BitVec.add_sub_cancel n 1⟩

theorem aside_driverKept (hi : ¬(s.irqPend = true ∧ n = 0#8)) : DriverKept (Aside s n) (Aside s n) Ordered where
  toDriverLines := aside_driver hord
  single p := (aside_driver hord).armSingle (aside_lock hord) (aside_unlock hord hi) p

theorem aside_rproc (p : Params) : Op.Spec (Aside s n) (rprocOp p) (fun _ => Aside s n) Ordered :=
  (aside_driver hord).rproc
    (fun t u hu h => h.congr (by rw [hu.1]) (by rw [hu.1]) (by rw [hu.1]) (by rw [hu.1]) (by rw [hu.1]))
    (fun t e h => h.congr rfl rfl rfl rfl rfl) p

end

end Sys2Proof.Machine
end

section
/-!
PROOF. The order of the queue through every instruction, and through a step that a sleep call's answer ends (41_scheduler.md
R143; 42_runloop.md R165).
-/

namespace Sys2Proof.Machine

/-! ## Every instruction -/

theorem ordered_run {α : Type} {m : Op α} {P Q : State → Prop} {s : State} (h : Op.Spec P m (fun _ => Q) Ordered)
    (hQ : ∀ t, Q t → Ordered t) (hs : P s) : Ordered (runOp m s) :=
  Op.spec_run (Op.spec_weaken h (fun _ hp => hp) (fun _ t ht => hQ t ht) fun _ ht => ht) hs

section
variable {base : Tick} {s : State} (hq : s.quiet) (hin : QueueIn base s) (hx : InBase base s.tick)
include hq hin hx

theorem commandLines_ordered {i : Instr} {m : Op Unit} (hi : ¬(s.irqPend = true ∧ s.irqNest = 0#8))
    (hnew : ∀ d, newDeadline i s = some d → InBase base d) (hm : commandLines i = some m) : Ordered (runOp m s) := by
  have hheld := windowed_held hx
  have hw : Windowed base s.xtime s := ⟨hq, rfl, hin⟩
  have hdriver := aside_driverKept hin.ends hi
  have hwin {m : Op Unit} (h : Op.Keeps (Windowed base s.xtime) Ordered m) : Ordered (runOp m s) := ordered_run h hheld.ends hw
  have haside {m : Op Unit} (h : Op.Keeps (Aside s s.irqNest) Ordered m) : Ordered (runOp m s) :=
    ordered_run h (fun _ => Aside.ends hin.ends) (aside_self hq)
  cases i
  case gettick => obtain rfl := Option.some.inj hm; exact hwin hheld.time.gettick
  case getxtime => obtain rfl := Option.some.inj hm; exact hwin hheld.time.getxtime
  case sched j dl cb fl => obtain rfl := Option.some.inj hm; exact hwin (windowed_sched hx (hnew _ rfl) j cb)
  case cancel j => obtain rfl := Option.some.inj hm; exact hwin (windowed_cancel hx j)
  case schedx j xdl cb => obtain rfl := Option.some.inj hm; exact hwin (windowed_schedx hx j (hnew _ rfl))
  case runstep => obtain rfl := Option.some.inj hm; exact hwin hheld.loop.runstep
  case runloop => obtain rfl := Option.some.inj hm; exact hwin hheld.loop.runloop
  case cbret => obtain rfl := Option.some.inj hm; exact hwin hheld.loop.finish
  case irqdis => obtain rfl := Option.some.inj hm; exact hwin hheld.nest.irqdis
  case irqen => obtain rfl := Option.some.inj hm; exact hwin hheld.nest.irqen
  case rinit => obtain rfl := Option.some.inj hm; exact haside (hdriver.rinit _)
  case rtx mode => obtain rfl := Option.some.inj hm; exact haside (hdriver.rtx _ mode)
  case rrx mode => obtain rfl := Option.some.inj hm; exact haside (hdriver.rrx (hdriver.single _) mode)
  case rsleep =>
    obtain rfl := Option.some.inj hm
    exact haside (hdriver.rsleep (fun _ h => h.congr rfl rfl rfl rfl rfl) _)
  case rrand =>
    obtain rfl := Option.some.inj hm
    exact haside (hdriver.rrand (fun _ _ h => h.congr rfl rfl rfl rfl rfl) _)
  all_goals exact nomatch hm

omit hq hx in
theorem internalOp_ordered {α : Type} {m : Op α} (h : Ordered (runOp m s)) :
    ∃ t, internalOp m s = .next t ∧ Ordered t := by
  refine ⟨_, rfl, ?_⟩
  split
  · exact hin.ends
  · exact h

theorem exec_ordered (hi : s.irqSettled) (i : Instr) (hnew : ∀ d, newDeadline i s = some d → InBase base d) :
    ∃ t, exec i s = .next t ∧ Ordered t := by
  cases hm : commandLines i with
  | some m =>
    rw [exec_command hm]
    refine ⟨_, rfl, ?_⟩
    split
    case h_1 ha => exact commandLines_ordered hq hin hx (hi (accepted_free ha).1) hnew hm
    case h_2 => exact ordered_congr (by simp) (by simp) hin.ends
    case h_3 => exact hin.ends
  | none =>
    have hcmd : i.isCommand = false := by rw [isCommand_iff, hm]; rfl
    by_cases hrirq : i = .rirq
    · subst hrirq
      exact ⟨s, congrArg Host.Outcome.next (serveIrq_of_not fun hc => hi hc.2.2 ⟨hc.1, hc.2.1⟩), hin.ends⟩
    by_cases hrproc : i = .rproc
    · subst hrproc
      exact internalOp_ordered hin (ordered_run (aside_rproc hin.ends _) (fun _ => Aside.ends hin.ends) (aside_self hq))
    by_cases hxstep : ∃ j, i = .xstep j
    · obtain ⟨j, rfl⟩ := hxstep
      exact internalOp_ordered hin
        (ordered_run (windowed_xstep hx j) (windowed_held hx).ends ⟨⟨hq, rfl, hin⟩, hnew _ rfl⟩)
    · obtain ⟨op, out, st, nin, hrow⟩ := rowFrame_isSome Config.params s.rcfg hcmd hrirq hrproc fun j hj => hxstep ⟨j, hj⟩
      rw [exec_rowFrame hrow]
      exact internalOp_ordered hin
        (ordered_run ((aside_frame hin.ends).frame op out st nin) (fun _ => Aside.ends hin.ends) (aside_self hq))

end

/-! ## A step that REACHED ends (R165 steps 2e to 5g) -/

/-- In the window, and the entry h, where it is intermediate, is rescheduled into the window. -/
def Headed (base : Tick) (x : XTime) (h : JobId) (s : State) : Prop :=
  Windowed base x s ∧ ((s.job h).cb = CB_XSTEP → XstepIn base h s)

section
variable {base : Tick} {x : XTime} {h : JobId} (hx : InBase base (xt2tick x))

theorem headed_congr {s t : State} (ht : Windowed base x t) (hj : t.job h = s.job h) (hs : Headed base x h s) :
    Headed base x h t := by
  refine ⟨ht, fun hcb => ?_⟩
  have hxs := hs.2 (hj ▸ hcb)
  unfold XstepIn State.tick at hxs ⊢
  rwa [hj, ht.2.1, ← hs.1.2.1]

theorem headed_unlink (j : JobId) : Op.Keeps (Headed base x h) Ordered (upd (State.unlink j)) :=
  Op.keeps_upd fun s hs =>
    headed_congr ⟨by simpa [State.quiet] using hs.1.1, by simpa using hs.1.2.1, hs.1.2.2.unlink j⟩ (unlink_job s j h) hs

include hx

/-- A served interrupt leaves the record of h, or makes RJOB's entry one of the processing callback. -/
theorem headed_held : QueueHeld (Headed base x h) where
  quiet s hs := hs.1.1
  same s t ht hs := headed_congr ((windowed_held hx).same s t ht hs.1)
    (by unfold State.job; rw [ht.jobs]) hs
  rirq s hs := by
    have hw := (windowed_held hx).rirq s hs.1
    by_cases hr : h = RJOB
    · refine ⟨hw, fun hcb => ?_⟩
      have hself := schedule_job_self hs.1.2.2.canonical s.tick RJOB s.tick CB_RPROC FL_IMMED
      have hrec : (s.rirq.job RJOB).cb = CB_RPROC := by
        rw [rirq_eq]
        exact congrArg JobRec.cb hself
      rw [hr, hrec] at hcb
      exact absurd hcb (by decide)
    · exact headed_congr hw (rirq_job_other s hr) hs
  ends s hs := (windowed_held hx).ends s hs.1

theorem headed_invoke (p : Params) (r : JobRec) :
    Op.Spec (fun s => Headed base x h s ∧ s.job h = r) (invoke p h r.cb) (fun _ => Ordered) Ordered := by
  have hw := windowed_held hx
  refine Op.spec_ite (fun hcb => ?_) fun _ => Op.spec_ite (fun _ => ?_) fun _ => ?_
  · refine Op.spec_weaken (hw.time.line (windowed_xstep hx h) hw.loop.finish) (fun s hs => ⟨hs.1.1, hs.1.2 ?_⟩)
      (fun _ => hw.ends) fun _ hs => hs
    rw [hs.2]
    exact hcb
  · intro s hs
    have hord := hw.ends s hs.1.1
    exact Op.spec_weaken (aside_rproc hord p) (fun _ ht => ht) (fun _ _ => Aside.ends hord) (fun _ ht => ht) s
      (aside_self hs.1.1.1)
  · exact Op.spec_upd fun s hs => ordered_congr (s := s) rfl rfl (hw.ends s hs.1.1)

theorem headed_sleepReached (p : Params) : Op.Spec (Headed base x h) (sleepReached p h) (fun _ => Ordered) Ordered := by
  have hheld := headed_held (h := h) hx
  have hlate (t : Tick) : Op.Keeps (Headed base x h) Ordered (lateCheck p h t) := hheld.loop.set fun s => by
    dsimp only
    split
    next => rfl
    next => rfl
  have hjob : Op.Spec (Headed base x h) (rd fun s => s.job h) (fun r s => Headed base x h s ∧ s.job h = r) Ordered :=
    Op.spec_rd fun _ hs => ⟨hs, rfl⟩
  have htau (r : JobRec) : Op.Keeps (fun s => Headed base x h s ∧ s.job h = r) Ordered tau := fun s hs => by
    rw [tau_quiet hs.1.1.1]
    exact hs
  exact hheld.time.line (hheld.loop.set fun _ => rfl) <|
    hheld.time.line (headed_unlink h) <|
    hheld.time.line (Op.spec_read fun _ => Op.spec_ite (fun _ => Op.keeps_pure ()) fun _ => hheld.nest.enable) <|
    Op.spec_read fun _ =>
    hheld.time.line (hlate _) <|
    hheld.time.line (hheld.loop.set fun _ => rfl) <|
    Op.spec_bind hjob fun r =>
    Op.spec_bind (htau r) fun _ => headed_invoke hx p r

end

/-- Settles O23: one window holds the deadlines before and after, so order, in the sense of all pairs, is kept by each line. -/
theorem scheduleKeepsOrder : Obligations.ScheduleKeepsOrder := by
  refine ⟨fun s now j dl cb fl hst hnd hord ⟨base, hwin⟩ => ?_, fun i s hq hi hst hnd hord ⟨base, hwin⟩ => ?_,
    fun s ts hts hq hst hnd hord ⟨base, hwin⟩ => ?_⟩
  · have hin : QueueIn base s := ⟨hst.2, hnd, fun e he => hwin _ (.inl ⟨e, he, rfl⟩), hord⟩
    have hafter := hin.schedule (hwin _ (.inr rfl)) j cb
    refine ⟨hafter.ordered, hafter.nodup, ?_, schedule_length hnd now j dl cb fl⟩
    rw [schedule_q]
    exact mem_insertBefore.mpr (.inl rfl)
  · have hin : QueueIn base s := ⟨hst.2, hnd, fun e he => hwin _ (.inl ⟨e, he, rfl⟩), hord⟩
    exact exec_ordered hq hin (hwin _ (.inr (.inl rfl))) hi i fun d hd => hwin d (.inr (.inr hd))
  · have hin : QueueIn base s := ⟨hst.2, hnd, fun e he => hwin _ (.inl ⟨e, he, rfl⟩), hord⟩
    refine ⟨_, step_turn hts (by simp), ?_⟩
    show Ordered (State.sleepReturns Config.params .reached { s with turns := ts })
    have hw : Windowed base s.xtime { s with turns := ts } := ⟨hq, rfl, hin.congr rfl rfl⟩
    rcases sleepReturns_cases Config.params .reached { s with turns := ts } with h
      | ⟨-, -, ⟨h, -⟩ | ⟨h, rest, -, hQ, h'⟩⟩
    · rw [h]
      exact hw.2.2.ends
    · exact nomatch h
    · rw [h']
      refine ordered_run (headed_sleepReached (x := s.xtime) (hwin _ (.inr (.inl rfl))) Config.params) (fun _ ht => ht)
        ⟨hw, fun hcb => hwin _ (.inr (.inr ⟨h, ?_, hcb, rfl⟩))⟩
      exact congrArg List.head? (show s.q = h :: rest from hQ)

end Sys2Proof.Machine
end
